-- ==== Sys2Proof/Word.lean ====
section
/-! DEFINITION. The words the core moves: bytes, line levels, command words, response words (R7, R13, R70, R76). -/

namespace Sys2Proof

/-- A data value: 8 bits, unsigned, bit 7 the most significant (R7, R13). -/
abbrev Byte := BitVec 8

/-- A line level (R13): `false` is logical low (0), `true` is logical high (1). -/
abbrev Level := Bool

/-- A command word `CMD[9:0]` (R70). -/
abbrev CommandWord := BitVec 10

/-- A response word `RESP[10:0]` (R76). -/
abbrev ResponseWord := BitVec 11

end Sys2Proof
end

