-- ==== Sys2Proof/Machine/Flags.lean ====
section
/-! DEFINITION. The core stores no flag (R29). The one condition it computes is SAMPLE's `accepted` bit (R142),
and the response word that carries it (R76). -/

namespace Sys2Proof.Machine

/-- `a == b` over all 8 bits (R13, R142, R146). -/
def agree (a b : Byte) : Bool := a == b

/-- `RESP[10:9]` (R76). -/
inductive RespKind where
  | invalid | done | raw | sampled
  deriving DecidableEq, Repr

/-- The bits of a kind (R76). -/
def RespKind.bits : RespKind → BitVec 2
  | .invalid => 0b00#2
  | .done => 0b01#2
  | .raw => 0b10#2
  | .sampled => 0b11#2

/-- `RESP[10:0]`: KIND, ACC, VALUE (R76). -/
def respWord (kind : RespKind) (acc : Bool) (value : Byte) : ResponseWord :=
  kind.bits ++ BitVec.ofBool acc ++ value

/-- DONE (R76). -/
def respDone : ResponseWord := respWord .done false 0x00#8

/-- RAW(r) (R76). -/
def respRaw (r : Byte) : ResponseWord := respWord .raw false r

/-- SAMPLED_RESP(accepted, value) (R76, R143). -/
def respSampled (accepted : Bool) (value : Byte) : ResponseWord := respWord .sampled accepted value

/-- INVALID (R76, R161). -/
def respInvalid : ResponseWord := respWord .invalid false 0x00#8

/-- The KIND field of a response. -/
def respKindBits (r : ResponseWord) : BitVec 2 := r.extractLsb' 9 2

/-- The ACC field of a response. -/
def respAcc (r : ResponseWord) : Bool := r.getLsbD 8

/-- The VALUE field of a response. -/
def respValue (r : ResponseWord) : Byte := r.extractLsb' 0 8

end Sys2Proof.Machine
end

