-- ==== Sys2Proof/Machine/Operands.lean ====
section
/-! DEFINITION. Operand bits and READ's accumulator arithmetic (R13, R53, R72, R121). -/

namespace Sys2Proof.Machine

/-- `v[i]` (R13). -/
def bitOf (v : Byte) (i : Nat) : Level := v.getLsbD i

/-- `zext_8(b)` of one level (R13). -/
def zext8 (b : Level) : Byte := (BitVec.ofBool b).setWidth 8

/-- `(v << 1)[7:0]` (R13). -/
def shiftLeft1 (v : Byte) : Byte := v <<< 1

/-- A serial chain takes `b` into cell 0: `(v << 1)[7:0] | zext_8(b)` (R182, R186). -/
def shiftIn (v : Byte) (b : Level) : Byte := shiftLeft1 v ||| zext8 b

/-- ACTIVE_LOW_INPUT (R121, R125): a low level sets bit 0, a high level leaves it clear. -/
def insertSample (acc : Byte) (s : Level) : Byte := if s = false then acc ||| 0x01#8 else acc

end Sys2Proof.Machine
end

