-- ==== Sys2Proof/Config.lean ====
section
/-! DEFINITION. What is fixed before the first command: the line roles, the configuration (R8-R10, R30), and
the free values: uninterpreted constants for everything the spec leaves as a parameter or a draw (R11, 93 U1-U10). -/

namespace Sys2Proof

/-- The seven line roles of `P_PINS` (R8). -/
inductive Role where
  | clockOut | latchOut | dataOut | enableOut | loadIn | clockIn | dataIn
  deriving DecidableEq, Repr

/-- The five lines the core drives (R26): the only lines a `SetLevel` can name (R28). -/
inductive DrivenLine where
  | clockOut | latchOut | dataOut | loadIn | clockIn
  deriving DecidableEq, Repr

/-- The role of a driven line. -/
def DrivenLine.role : DrivenLine → Role
  | .clockOut => .clockOut
  | .latchOut => .latchOut
  | .dataOut => .dataOut
  | .loadIn => .loadIn
  | .clockIn => .clockIn

/-- The two register protocols (R28): each role belongs to one of them. -/
inductive Path where
  | output | input
  deriving DecidableEq, Repr

/-- The path column of R28; the subsets of R27. -/
def Role.path : Role → Path
  | .clockOut => .output
  | .latchOut => .output
  | .dataOut => .output
  | .enableOut => .output
  | .loadIn => .input
  | .clockIn => .input
  | .dataIn => .input

/-- What may be done on a line (R28): the core drives it, setup drives it, or the core samples it. -/
inductive Direction where
  | drive | drivenBySetup | sample
  deriving DecidableEq, Repr

/-- The direction column of R28. -/
def Role.direction : Role → Direction
  | .clockOut => .drive
  | .latchOut => .drive
  | .dataOut => .drive
  | .enableOut => .drivenBySetup
  | .loadIn => .drive
  | .clockIn => .drive
  | .dataIn => .sample

/-- `P_PINS` (R8): the physical line identifier of each role. -/
structure PinAssignment where
  clockOut : Nat
  latchOut : Nat
  dataOut : Nat
  enableOut : Nat
  loadIn : Nat
  clockIn : Nat
  dataIn : Nat
  deriving DecidableEq, Repr

/-- The identifier `P_PINS` gives a role. -/
def PinAssignment.get (p : PinAssignment) : Role → Nat
  | .clockOut => p.clockOut
  | .latchOut => p.latchOut
  | .dataOut => p.dataOut
  | .enableOut => p.enableOut
  | .loadIn => p.loadIn
  | .clockIn => p.clockIn
  | .dataIn => p.dataIn

/-- The configuration of R30, fixed before the first command. -/
structure Configuration where
  pins : PinAssignment
  /-- `P_DEBOUNCE_WINDOW` in abstract time units (R10). -/
  window : Nat
  deriving DecidableEq, Repr

namespace Config

/-- `P_SAMPLED_RESET` (R11, R24; U1): any byte. -/
opaque sampledReset : Byte

/-- `P_LINE_INIT` (R11, R26; U3): the level setup left on each driven line. -/
opaque lineInit : DrivenLine → Level

/-- `P_OE_N` (R26, R204; U4): the level setup left on `enable_out`. -/
opaque enableOutInit : Level

/-- `P_OUT_DEV_INIT`, the shift cells (R181; U5). -/
opaque outCellsInit : Byte

/-- `P_OUT_DEV_INIT`, the latches (R181; U5). -/
opaque outLatchesInit : Byte

/-- `P_IN_DEV_INIT` (R185; U6). -/
opaque inCellsInit : Byte

/-- `P_INPUT_LINES` before the first event (R185; U9). -/
opaque inputLinesInit : Byte

/-- `P_INPUT_LINES` (R61, R185; U9): the levels IN[7:0] takes, one after another, in the gap before the
event that `n` earlier events precede. -/
opaque inputChanges : Nat → List Byte

/-- The instant of a capture within the strobe's low phase (R185; U8), drawn at event `n`. -/
opaque captureInstant : Nat → Nat

/-- SER, the level entering the input register's chain (R186; U10), drawn at event `n`. -/
opaque serialIn : Nat → Level

/-- What the eight outputs show while `enable_out` is high (R184; U7), after `n` events. -/
opaque undrivenOutputs : Nat → Byte

/-- What the byte-wide working register number `r` (0 `acc`, 1 `a`, 2 `b`) holds when a word is accepted
after `n` events: nothing the spec gives (R25). Each is written before it is read. -/
opaque freshByte : Nat → Nat → Byte

/-- What the working register `s` holds when a word is accepted after `n` events (R25). -/
opaque freshLevel : Nat → Level

/-- The reference value of `P_DEBOUNCE_WINDOW` (R10). -/
def referenceWindow : Nat := 20

/-- DESIGN CHOICE (log 12): seven distinct identifiers, in the order R8 lists the roles. -/
def referencePins : PinAssignment :=
  { clockOut := 0, latchOut := 1, dataOut := 2, enableOut := 3, loadIn := 4, clockIn := 5, dataIn := 6 }

end Config
end Sys2Proof
end

