-- ==== Sys2Proof/Syntax.lean ====
section
/-! DEFINITION. The three commands (R2, R71): one constructor per row of spec/opcode_table.json. -/

namespace Sys2Proof

/-- A command of the core. -/
inductive Instr where
  /-- SEND (R101): `v` is any byte. -/
  | send (v : Byte)
  /-- READ (R121). -/
  | read
  /-- SAMPLE (R141). -/
  | sample
  deriving DecidableEq, Repr

end Sys2Proof
end

