-- ==== Sys2Proof/WellFormed.lean ====
section
/-! DEFINITION. What is well-formed: a pin assignment and a configuration (R27, R30). Every term of `Instr`
is a legal command: SEND takes each of the 256 bytes and READ and SAMPLE take nothing (R72). -/

namespace Sys2Proof

/-- The seven identifiers, in the order of R8. -/
def PinAssignment.ids (p : PinAssignment) : List Nat :=
  [p.clockOut, p.latchOut, p.dataOut, p.enableOut, p.loadIn, p.clockIn, p.dataIn]

/-- "all seven identifiers are distinct physical lines" (R8, R27). -/
def PinAssignment.wf (p : PinAssignment) : Bool :=
  decide p.ids.Nodup

/-- A configuration is admitted only if its identifiers are distinct (R27) and its window has a legal value,
greater than 0 (R10, R30; logs 13, 14). -/
def Configuration.wf (c : Configuration) : Bool :=
  c.pins.wf && decide (0 < c.window)

/-- Every command is well-formed (R72). -/
def Instr.wf : Instr → Bool
  | .send _ => true
  | .read => true
  | .sample => true

end Sys2Proof
end

