-- ==== Sys2Proof/Machine/State.lean ====
section
/-! DEFINITION. The machine's state (R20, R33), plain data: the core, the line setup holds, the two external
registers with the environment (R180-R187), the host's words and responses, and the trace (R15). -/

namespace Sys2Proof.Machine

/-- Why the machine stops. No command and no step raises a fault (R160, R162). -/
inductive Fault where
  /-- Raised by `State.readOutValue` alone, when OUT_VALUE is read before the first SEND (R23). Safe: the
  spec asks for it, and no command reads OUT_VALUE. -/
  | outValueUnset
  deriving DecidableEq, Repr

/-- Why the machine gives no meaning. -/
inductive Refusal where
  /-- Raised by an arm of `exec` for a command without a meaning: no arm does. Safe. -/
  | notModelled (mnemonic : String)
  /-- Raised by `step` when the configuration is not well-formed: two roles on one identifier, which "is
  refused as a whole" (R27), or a window that is not greater than 0 (R10, R30; logs 13, 14). Safe. -/
  | illFormedConfiguration
  deriving DecidableEq, Repr

/-- A line event (R15). -/
inductive LineEvent where
  /-- `SetLevel(l, b)`. -/
  | setLevel (l : DrivenLine) (b : Level)
  /-- `GetLevel(data_in)`, which returned `b`; `data_in` is the only line sampled (R28). -/
  | getLevel (b : Level)
  /-- `Sleep(d)`. -/
  | sleep (d : Nat)
  deriving DecidableEq, Repr

/-- DRV (R26): the level the core drives on each of its five lines. -/
structure Drv where
  clockOut : Level
  latchOut : Level
  dataOut : Level
  loadIn : Level
  clockIn : Level
  deriving DecidableEq, Repr

/-- The output register (R181): shift cells SR and output latches L. -/
structure OutReg where
  cells : Byte
  latches : Byte
  deriving DecidableEq, Repr

/-- The input register (R185): shift cells C. -/
structure InReg where
  cells : Byte
  deriving DecidableEq, Repr

/-- What the environment does between one event and the next (R61, R185, R186). -/
structure Gap where
  /-- The levels IN[7:0] takes one after another; none where the lines keep their levels. -/
  changes : List Byte
  /-- Where the next event ends a load strobe: how many of the changes precede the capture (R185). -/
  instant : Nat
  /-- Where the next event shifts the input register: SER, the level that enters its chain (R186). -/
  ser : Level
  deriving DecidableEq, Repr

/-- The working registers of R25. -/
structure Work where
  acc : Byte
  s : Level
  a : Byte
  b : Byte
  deriving DecidableEq, Repr

/-- What an accepted word asks for: a command, or nothing (an invalid word, R161). -/
inductive Job where
  | command (i : Instr)
  | invalid
  deriving DecidableEq, Repr

/-- SEQ (R22). BUSY holds what the core is performing, the position in its fixed pseudocode, and the
working registers, which exist only then (R25). -/
inductive Seq where
  | idle
  | busy (job : Job) (pos : Nat) (work : Work)
  deriving DecidableEq, Repr

/-- The state of the machine. -/
structure State where
  /-- `P_PINS` and `P_DEBOUNCE_WINDOW`: fixed before the first command, never written (R30). -/
  config : Configuration
  /-- SEQ (R22). -/
  seq : Seq
  /-- OUT_VALUE (R23): a byte, or no value before the first SEND. -/
  outValue : Option Byte
  /-- SAMPLED (R24). -/
  sampled : Byte
  /-- DRV (R26). -/
  drv : Drv
  /-- The level of `enable_out`, held by setup (R26, R204). -/
  enableOut : Level
  /-- The output register (R181). -/
  outReg : OutReg
  /-- The input register (R185). -/
  inReg : InReg
  /-- IN[7:0], the levels of the parallel inputs now (R185, R187). -/
  inLines : Byte
  /-- `P_INPUT_LINES` and the environment's draws as far as they are given: the coming gaps, the next
  first. Past its end every draw is a free value of `Config`. -/
  gaps : List Gap
  /-- The line events performed since reset, oldest first (R15, R60). -/
  trace : List LineEvent
  /-- The words the host has presented and the core has not accepted, oldest first (R75). -/
  pending : List CommandWord
  /-- The responses given since reset, oldest first (R76). -/
  responses : List ResponseWord
  deriving DecidableEq, Repr

/-- The parameters of R11 and R30: what setup and the environment leave before the first command. -/
structure Params where
  config : Configuration
  sampledReset : Byte
  lineInit : Drv
  enableOut : Level
  outDevInit : OutReg
  inDevInit : InReg
  inLines : Byte
  gaps : List Gap
  deriving DecidableEq, Repr

/-- The state right after power-on (R33, R200) for given parameters. -/
def State.resetWith (p : Params) : State :=
  { config := p.config, seq := .idle, outValue := none, sampled := p.sampledReset, drv := p.lineInit,
    enableOut := p.enableOut, outReg := p.outDevInit, inReg := p.inDevInit, inLines := p.inLines,
    gaps := p.gaps, trace := [], pending := [], responses := [] }

/-- The parameters left open by the spec, as uninterpreted constants; the reference configuration. -/
def Params.reference : Params :=
  { config := { pins := Config.referencePins, window := Config.referenceWindow },
    sampledReset := Config.sampledReset,
    lineInit := { clockOut := Config.lineInit .clockOut, latchOut := Config.lineInit .latchOut,
                  dataOut := Config.lineInit .dataOut, loadIn := Config.lineInit .loadIn,
                  clockIn := Config.lineInit .clockIn },
    enableOut := Config.enableOutInit,
    outDevInit := { cells := Config.outCellsInit, latches := Config.outLatchesInit },
    inDevInit := { cells := Config.inCellsInit },
    inLines := Config.inputLinesInit,
    gaps := [] }

/-- The machine right after reset (R33, R200). -/
def State.reset : State := State.resetWith Params.reference

end Sys2Proof.Machine
end

