-- ==== Sys2Proof/Machine/Ops.lean ====
section
/-! DEFINITION. The named operations: the two external registers (R181-R187), the environment's gaps (R61),
the line events (R15, R51, R52), and acceptance and response (R75, R76). There is no exception to take and
none to return from (R160, R165, R166). -/

namespace Sys2Proof.Machine

/-- The level driven on a line (R26). -/
def Drv.get (d : Drv) : DrivenLine → Level
  | .clockOut => d.clockOut
  | .latchOut => d.latchOut
  | .dataOut => d.dataOut
  | .loadIn => d.loadIn
  | .clockIn => d.clockIn

/-- `DRV[l] <- b` (R26). -/
def Drv.set (d : Drv) (l : DrivenLine) (b : Level) : Drv :=
  match l with
  | .clockOut => { d with clockOut := b }
  | .latchOut => { d with latchOut := b }
  | .dataOut => { d with dataOut := b }
  | .loadIn => { d with loadIn := b }
  | .clockIn => { d with clockIn := b }

/-- SetLevel to `new` makes a rising edge when the level was low (R51). -/
def rising (old new : Level) : Bool := new && !old

/-- SetLevel to `new` makes a falling edge when the level was high (R51). -/
def falling (old new : Level) : Bool := !new && old

/-! ## The output register -/

/-- A rising edge of `clock_out` (R182). -/
def OutReg.shift (r : OutReg) (dataOut : Level) : OutReg := { r with cells := shiftIn r.cells dataOut }

/-- A rising edge of `latch_out` (R183). -/
def OutReg.latch (r : OutReg) : OutReg := { r with latches := r.cells }

/-! ## The input register -/

/-- The levels of IN at the instant of a capture (R185): `now` is what IN shows when the low phase begins,
`changes` what it shows after each change in it, `instant` how many changes precede the capture. -/
def captured (now : Byte) : List Byte → Nat → Byte
  | [], _ => now
  | _ :: _, 0 => now
  | c :: cs, n + 1 => captured c cs n

/-- The levels of IN when a gap has passed. -/
def linesAfter (now : Byte) : List Byte → Byte
  | [] => now
  | c :: cs => linesAfter c cs

/-- A load strobe captured the snapshot `p`: `C <- IN` (R185). -/
def InReg.load (r : InReg) (p : Byte) : InReg := { r with cells := p }

/-- A rising edge of `clock_in` while `load_in` is 1 (R186). -/
def InReg.shift (r : InReg) (ser : Level) : InReg := { r with cells := shiftIn r.cells ser }

/-- The level on `data_in` is `C[7]` at every instant (R186). -/
def InReg.serialOut (r : InReg) : Level := bitOf r.cells 7

/-! ## The environment between two events -/

/-- What the environment does before the next event: as its script gives it, and free values past the
script's end (R61; log 5). -/
def State.nextGap (s : State) : Gap :=
  match s.gaps with
  | g :: _ => g
  | [] =>
    { changes := Config.inputChanges s.trace.length,
      instant := Config.captureInstant s.trace.length,
      ser := Config.serialIn s.trace.length }

/-- The gap before the next event passes: only the input lines change (R61). -/
def State.passGap (s : State) : State :=
  { s with inLines := linesAfter s.inLines s.nextGap.changes, gaps := s.gaps.tail }

/-- An event enters the trace (R15, R60). -/
def State.record (s : State) (e : LineEvent) : State := { s with trace := s.trace ++ [e] }

/-! ## The line events -/

/-- What a rising edge on a line does to the output register (R182, R183). -/
def OutReg.onRising (r : OutReg) (l : DrivenLine) (dataOut : Level) : OutReg :=
  match l with
  | .clockOut => r.shift dataOut
  | .latchOut => r.latch
  | .dataOut => r
  | .loadIn => r
  | .clockIn => r

/-- What a rising edge on a line does to the input register (R185, R186): `p` is the snapshot a load strobe
that ends here has captured. The spec gives no shift while `load_in` is 0 (log 26). -/
def InReg.onRising (r : InReg) (l : DrivenLine) (loadIn : Level) (p : Byte) (ser : Level) : InReg :=
  match l with
  | .clockOut => r
  | .latchOut => r
  | .dataOut => r
  | .loadIn => r.load p
  | .clockIn => if loadIn = true then r.shift ser else r

/-- `SetLevel(l, b)` (R51): the gap before it passes, `DRV[l] <- b`, and a rising edge acts on the
registers; a falling edge and no edge do nothing (R182, R183, R186). -/
def State.setLevel (s : State) (l : DrivenLine) (b : Level) : State :=
  let g := s.nextGap
  let up := rising (s.drv.get l) b
  { s.passGap.record (.setLevel l b) with
    drv := s.drv.set l b
    outReg := if up then s.outReg.onRising l s.drv.dataOut else s.outReg
    inReg := if up then s.inReg.onRising l s.drv.loadIn (captured s.inLines g.changes g.instant) g.ser
      else s.inReg }

/-- What `GetLevel(data_in)` returns (R52, R186): a gap changes IN, never the cells. -/
def State.dataIn (s : State) : Level := s.inReg.serialOut

/-- `GetLevel(data_in)` (R52): it "changes no state of the core or of any device". -/
def State.getLevel (s : State) : State := s.passGap.record (.getLevel s.dataIn)

/-- `Sleep(d)` (R15, R170): one event, no line event. -/
def State.sleep (s : State) (d : Nat) : State := s.passGap.record (.sleep d)

/-! ## What the lines show -/

/-- The eight output lines OUT[7:0] (R184): the latches while `enable_out` is low, no defined level (a free
value) while it is high. -/
def State.outputs (s : State) : Byte :=
  if s.enableOut = false then s.outReg.latches else Config.undrivenOutputs s.trace.length

/-- The level on each of the seven lines (R26, R186). -/
def State.lineLevel (s : State) : Role → Level
  | .clockOut => s.drv.clockOut
  | .latchOut => s.drv.latchOut
  | .dataOut => s.drv.dataOut
  | .enableOut => s.enableOut
  | .loadIn => s.drv.loadIn
  | .clockIn => s.drv.clockIn
  | .dataIn => s.dataIn

/-- The roles in the order of R8. -/
def Role.all : List Role :=
  [.clockOut, .latchOut, .dataOut, .enableOut, .loadIn, .clockIn, .dataIn]

/-- The level on the physical line with identifier `id` (R8, R51); none if no role has it. -/
def State.pinLevel (s : State) (id : Nat) : Option Level :=
  (Role.all.find? (fun r => s.config.pins.get r == id)).map s.lineLevel

/-- OUT_VALUE read (R23): before the first SEND "a model that reads it then must fault". -/
def State.readOutValue (s : State) : Host.Outcome Byte Fault Refusal :=
  match s.outValue with
  | some v => .next v
  | none => .fault .outValueUnset

/-! ## Acceptance and response -/

/-- The working registers when a word is accepted: free values, since the spec gives none (R25; log 17). -/
def Work.fresh (n : Nat) : Work :=
  { acc := Config.freshByte 0 n, s := Config.freshLevel n, a := Config.freshByte 1 n, b := Config.freshByte 2 n }

/-- `SEQ <- q` (R22). -/
def State.withSeq (s : State) (q : Seq) : State := { s with seq := q }

/-- `OUT_VALUE <- v` (R23). -/
def State.storeOut (s : State) (v : Byte) : State := { s with outValue := some v }

/-- `SAMPLED <- x` (R24). -/
def State.storeSampled (s : State) (x : Byte) : State := { s with sampled := x }

/-- `SEQ <- BUSY` (R22, R75). -/
def State.accept (s : State) (job : Job) : State :=
  s.withSeq (.busy job 0 (Work.fresh s.trace.length))

/-- `respond(r)` (R16, R76): the host gets `r`, `SEQ <- IDLE`. -/
def State.respond (s : State) (r : ResponseWord) : State :=
  { s with seq := .idle, responses := s.responses ++ [r] }

end Sys2Proof.Machine
end

