-- ==== Sys2Proof/Machine/Program.lean ====
section
/-! DEFINITION. The fixed pseudocode of each command (R101, R121, R141) as a list of its statements in order,
and what each statement does. -/

namespace Sys2Proof.Machine

/-- A statement of the pseudocode of R101, R121, R141. -/
inductive Op where
  /-- `OUT_VALUE <- v`. -/
  | storeOut (v : Byte)
  /-- `SetLevel(l, b)`. -/
  | set (l : DrivenLine) (b : Level)
  /-- `s <- GetLevel(data_in)`. -/
  | sampleLine
  /-- `Sleep(d)`. -/
  | sleep (d : Nat)
  /-- `acc <- 0x00`. -/
  | clearAcc
  /-- `acc <- (acc << 1)[7:0]`. -/
  | shiftAcc
  /-- `if s == 0 then acc <- acc | 0x01`. -/
  | orAcc
  /-- `a <- READ_SEQ()`: the returned `acc` is kept in `a`. -/
  | keepA
  /-- `b <- READ_SEQ()`: the returned `acc` is kept in `b`. -/
  | keepB
  deriving DecidableEq, Repr

/-- What a statement does to the state and the working registers. -/
def Op.run (op : Op) (s : State) (w : Work) : State × Work :=
  match op with
  | .storeOut v => (s.storeOut v, w)
  | .set l b => (s.setLevel l b, w)
  | .sampleLine => (s.getLevel, { w with s := s.dataIn })
  | .sleep d => (s.sleep d, w)
  | .clearAcc => (s, { w with acc := 0x00#8 })
  | .shiftAcc => (s, { w with acc := shiftLeft1 w.acc })
  | .orAcc => (s, { w with acc := insertSample w.acc w.s })
  | .keepA => (s, { w with a := w.acc })
  | .keepB => (s, { w with b := w.acc })

/-- SEND's loop body for bit `i` (R101). -/
def sendBitOps (v : Byte) (i : Nat) : List Op :=
  [.set .clockOut false, .set .dataOut (bitOf v i), .set .clockOut true]

/-- SEND (R101): bits 7 downto 0, then the latch pulse. -/
def sendOps (v : Byte) : List Op :=
  Op.storeOut v :: ([7, 6, 5, 4, 3, 2, 1, 0].flatMap (sendBitOps v)
    ++ [Op.set .latchOut false, Op.set .latchOut true])

/-- READ_SEQ's loop body (R121). -/
def readBitOps : List Op :=
  [.set .clockIn false, .sampleLine, .set .clockIn true, .shiftAcc, .orAcc]

/-- READ_SEQ (R121): the strobe, then eight bits. -/
def readSeqOps : List Op :=
  [Op.set .loadIn false, Op.set .loadIn true, Op.clearAcc] ++ (List.replicate 8 readBitOps).flatten

/-- SAMPLE up to its decision (R141). -/
def sampleOps (window : Nat) : List Op :=
  readSeqOps ++ [Op.keepA, Op.sleep window] ++ readSeqOps ++ [Op.keepB]

/-- The pseudocode of what an accepted word asks for; an invalid word performs nothing (R161). -/
def Job.ops (job : Job) (c : Configuration) : List Op :=
  match job with
  | .command (.send v) => sendOps v
  | .command .read => readSeqOps
  | .command .sample => sampleOps c.window
  | .invalid => []

/-- SAMPLE's decision and response (R141-R143): SAMPLED takes `a` only if the reads agree. -/
def State.completeSample (s : State) (w : Work) : State :=
  let s' := if agree w.a w.b then s.storeSampled w.a else s
  s'.respond (respSampled (agree w.a w.b) s'.sampled)

/-- What stands after the last statement: the response, and for SAMPLE the decision before it. -/
def State.complete (s : State) (job : Job) (w : Work) : State :=
  match job with
  | .command (.send _) => s.respond respDone
  | .command .read => s.respond (respRaw w.acc)
  | .command .sample => s.completeSample w
  | .invalid => s.respond respInvalid

/-- The core performs the next statement, or ends what it is performing; at IDLE it does nothing (R22). -/
def State.tick (s : State) : State :=
  match s.seq with
  | .idle => s
  | .busy job pos w =>
    match (job.ops s.config)[pos]? with
    | some op => (op.run s w).1.withSeq (.busy job (pos + 1) (op.run s w).2)
    | none => s.complete job w

/-- `n` ticks. -/
def State.ticks : Nat → State → State
  | 0, s => s
  | n + 1, s => State.ticks n s.tick

/-- How many ticks end what the core is performing. -/
def State.remaining (s : State) : Nat :=
  match s.seq with
  | .idle => 0
  | .busy job pos _ => (job.ops s.config).length - pos + 1

/-- What is running is run to its end: "once a byte transfer begins, it runs to completion" (R75, R211). -/
def State.finish (s : State) : State := State.ticks s.remaining s

/-- A word is accepted and performed to its end. While BUSY it is held until the running command has ended,
"and the word is then accepted as if presented then" (R75). -/
def State.issue (s : State) (job : Job) : State := (s.finish.accept job).finish

end Sys2Proof.Machine
end

