-- ==== Sys2Proof/Machine/Read.lean ====
section
/-! DEFINITION. READ: the meaning of the input shift driver's command (R120-R130). -/

namespace Sys2Proof.Machine

/-- READ (R121): it always completes and always responds RAW. -/
def execRead (s : State) : Host.Outcome State Fault Refusal :=
  .next (s.issue (.command .read))

end Sys2Proof.Machine
end

