-- ==== Sys2Proof/Machine/Sample.lean ====
section
/-! DEFINITION. SAMPLE: the meaning of the debounce sampler's command (R140-R150). -/

namespace Sys2Proof.Machine

/-- SAMPLE (R141): two reads a window apart, accepted only on agreement; a disagreement is no error. -/
def execSample (s : State) : Host.Outcome State Fault Refusal :=
  .next (s.issue (.command .sample))

end Sys2Proof.Machine
end

