-- ==== Sys2Proof/Machine/Send.lean ====
section
/-! DEFINITION. SEND: the meaning of the output shift driver's command (R100-R110). -/

namespace Sys2Proof.Machine

/-- SEND v (R101): it always completes and always responds DONE. -/
def execSend (v : Byte) (s : State) : Host.Outcome State Fault Refusal :=
  .next (s.issue (.command (.send v)))

end Sys2Proof.Machine
end

