-- ==== Sys2Proof/Machine/Dispatch.lean ====
section
/-! DEFINITION. exec: one arm per command, each one call of its meaning. -/

namespace Sys2Proof.Machine

def exec (i : Instr) (s : State) : Host.Outcome State Fault Refusal :=
  match i with
  | .send v => Sys2Proof.Machine.execSend v s
  | .read => Sys2Proof.Machine.execRead s
  | .sample => Sys2Proof.Machine.execSample s

end Sys2Proof.Machine
end

