-- ==== Sys2Proof/Decode.lean ====
section
/-! DEFINITION. The command word: decoder (R70-R74), the reasons a word is invalid (R73), the encoder (R79),
and the host's entry `decodeTableWord`. -/

namespace Sys2Proof

/-- Why a word is invalid (R73). -/
inductive InvalidWord where
  /-- `OP = 00`, any DATA. -/
  | reservedOp
  /-- `OP = 10` with DATA other than 0x00. -/
  | readData
  /-- `OP = 11` with DATA other than 0x00. -/
  | sampleData
  deriving DecidableEq, Repr

/-- `CMD[9:8]` (R70). -/
def CommandWord.op (w : CommandWord) : BitVec 2 := w.extractLsb' 8 2

/-- `CMD[7:0]` (R70); SEND's operand as it is (R72). -/
def CommandWord.data (w : CommandWord) : Byte := w.extractLsb' 0 8

/-- The decoder of R74, total on the 1024 words. -/
def decode (w : CommandWord) : Except InvalidWord Instr :=
  if CommandWord.op w = 0b01#2 then .ok (.send (CommandWord.data w))
  else if CommandWord.op w = 0b10#2 then
    if CommandWord.data w = 0x00#8 then .ok .read else .error .readData
  else if CommandWord.op w = 0b11#2 then
    if CommandWord.data w = 0x00#8 then .ok .sample else .error .sampleData
  else .error .reservedOp

/-- The word of a command (R71, R77, R79): OP above DATA. -/
def encode : Instr → CommandWord
  | .send v => 0b01#2 ++ v
  | .read => 0b10#2 ++ 0x00#8
  | .sample => 0b11#2 ++ 0x00#8

/-- The command read from a word given as a number, bit 0 the least significant. A command word has ten
bits and nothing follows it (R70), so a number with a higher bit set is no command word (log 24). -/
def decodeTableWord (_nbits w : Nat) : Option Instr :=
  if w < 1024 then
    match decode (BitVec.ofNat 10 w) with
    | .ok i => some i
    | .error _ => none
  else none

end Sys2Proof
end

