-- ==== Sys2Proof/Machine/HostSide.lean ====
section
/-! DEFINITION. The host's side of the interface (R75, R168): words presented, words taken, an invalid word
rejected (R161), waiting (R201). -/

namespace Sys2Proof.Machine

/-- The host presents a word; words presented earlier come first, and none is dropped (R75). -/
def State.present (s : State) (w : CommandWord) : State := { s with pending := s.pending ++ [w] }

/-- The core takes the oldest presented word from the host. -/
def State.takeWord (s : State) : State := { s with pending := s.pending.tail }

/-- An accepted word that decodes to INVALID (R161): no event, response INVALID, back to IDLE. -/
def State.reject (s : State) : State := s.issue .invalid

/-- The number `w` as a command word the core finds next, with the core able to accept it. A number with a
bit above `CMD[9]` is no command word, and nothing is presented (log 24). -/
def State.withNextWord (s : State) (w : Nat) : State :=
  if w < 1024 then { s with seq := .idle, pending := BitVec.ofNat 10 w :: s.pending } else s

end Sys2Proof.Machine
end

