-- ==== Sys2Proof/Machine/Step.lean ====
section
/-! DEFINITION. One step of the machine: the core takes the next word the host has presented and performs it
(R75); the host's entry `withFetchWord`. -/

namespace Sys2Proof.Machine

/-- One step. A configuration that is not well-formed is refused as a whole (R27; for the
window R10, R30 and logs 13, 14). While BUSY no word is
accepted: the running command is run to its end and the words presented are held (R75). At IDLE the oldest
word presented is accepted and performed, or the core waits (R201). -/
def step (s : State) : Host.Outcome State Fault Refusal :=
  if s.config.wf = true then
    match s.seq with
    | .busy _ _ _ => .next s.finish
    | .idle =>
      match s.pending with
      | [] => .next s
      | w :: _ =>
        match decode w with
        | .ok i => exec i s.takeWord
        | .error _ => .next s.takeWord.reject
  else .refused .illFormedConfiguration

/-- `s` with the word numbered `w` as the next one the core accepts: it is IDLE and the host presents it
before any other (log 2). -/
def State.withFetchWord (s : State) (_nbits w : Nat) : State := s.withNextWord w

end Sys2Proof.Machine
end

