-- ==== Sys2Proof/Machine/Assembler.lean ====
section
/-! DEFINITION. The assembler of R77: one command a line. -/

namespace Sys2Proof.Machine

/-- Why the assembler refuses a line (R77). -/
inductive AsmError where
  | unknownMnemonic
  | missingOperand
  | operandNotAllowed
  | badImmediate
  deriving DecidableEq, Repr

/-- What stands before a `;` (R77). -/
def dropComment : List Char → List Char
  | [] => []
  | c :: cs => if c = ';' then [] else c :: dropComment cs

/-- What separates the words of a line. -/
def isBlank (c : Char) : Bool := c == ' ' || c == '\t' || c == '\r' || c == '\n'

/-- The words of a line: `cur` is the word being read, its last character first. -/
def splitWords : List Char → List Char → List (List Char)
  | [], cur => if cur.isEmpty then [] else [cur.reverse]
  | c :: cs, cur =>
    if isBlank c then
      if cur.isEmpty then splitWords cs [] else cur.reverse :: splitWords cs []
    else splitWords cs (c :: cur)

/-- A digit's value, up to base 16, in either case of its letter. -/
def digitValue (c : Char) : Option Nat :=
  if 48 ≤ c.toNat ∧ c.toNat ≤ 57 then some (c.toNat - 48)
  else if 65 ≤ c.toNat ∧ c.toNat ≤ 70 then some (c.toNat - 55)
  else if 97 ≤ c.toNat ∧ c.toNat ≤ 102 then some (c.toNat - 87)
  else none

/-- Digits in a base, the most significant first, after `n`. -/
def readDigits (base : Nat) : List Char → Nat → Option Nat
  | [], n => some n
  | c :: cs, n =>
    match digitValue c with
    | some d => if d < base then readDigits base cs (n * base + d) else none
    | none => none

/-- The number an `<imm8>` writes: 0xNN, 0bNNNNNNNN or decimal (R77; log 25). -/
def immNumber : List Char → Option Nat
  | [] => none
  | ['0', 'x', h, l] => readDigits 16 [h, l] 0
  | '0' :: 'b' :: ds => if ds.length = 8 then readDigits 2 ds 0 else none
  | ds => readDigits 10 ds 0

/-- `<imm8>`: 0 to 255 and nothing else (R77). -/
def immByte (cs : List Char) : Except AsmError Byte :=
  match immNumber cs with
  | some n => if n < 256 then .ok (BitVec.ofNat 8 n) else .error .badImmediate
  | none => .error .badImmediate

/-- The capital of a letter a to z. -/
def capital (c : Char) : Char := if 97 ≤ c.toNat ∧ c.toNat ≤ 122 then Char.ofNat (c.toNat - 32) else c

/-- The words of a line as a command; none for a line without one. Mnemonics are case-insensitive (R77). -/
def parseWords : List (List Char) → Except AsmError (Option Instr)
  | [] => .ok none
  | m :: ops =>
    if m.map capital = ['S', 'E', 'N', 'D'] then
      match ops with
      | [] => .error .missingOperand
      | [o] =>
        match immByte o with
        | .ok v => .ok (some (.send v))
        | .error e => .error e
      | _ :: _ :: _ => .error .operandNotAllowed
    else if m.map capital = ['R', 'E', 'A', 'D'] then
      if ops.isEmpty then .ok (some .read) else .error .operandNotAllowed
    else if m.map capital = ['S', 'A', 'M', 'P', 'L', 'E'] then
      if ops.isEmpty then .ok (some .sample) else .error .operandNotAllowed
    else .error .unknownMnemonic

/-- The word the assembler writes for a line (R77); none for an empty line or a comment. -/
def assembleLine (line : List Char) : Except AsmError (Option CommandWord) :=
  match parseWords (splitWords (dropComment line) []) with
  | .ok i => .ok (i.map encode)
  | .error e => .error e

/-- The hexadecimal digit of a value under 16. -/
def hexDigit (n : Nat) : Char := if n < 10 then Char.ofNat (48 + n) else Char.ofNat (55 + n)

/-- A command as R77 spells it, the byte as 0xNN. -/
def spell : Instr → List Char
  | .send v => ['S', 'E', 'N', 'D', ' ', '0', 'x', hexDigit (v.toNat / 16), hexDigit (v.toNat % 16)]
  | .read => ['R', 'E', 'A', 'D']
  | .sample => ['S', 'A', 'M', 'P', 'L', 'E']

end Sys2Proof.Machine
end

