-- ==== Sys2Proof/Machine/Controller.lean ====
section
/-! DEFINITION. The reference host (R175, R176): a host, no part of the core. -/

namespace Sys2Proof.Machine

/-- The VALUE of the last response the host got. -/
def State.lastValue (s : State) : Byte := respValue (s.responses.getLastD 0#11)

/-- The host presents a word and takes a step of the machine. -/
def State.call (s : State) (i : Instr) : Host.Outcome State Fault Refusal := step (s.present (encode i))

/-- One iteration of the reference loop (R176): SAMPLE, then SEND of the VALUE it answered, whatever ACC is. -/
def controllerIteration (s : State) : Host.Outcome State Fault Refusal :=
  match s.call .sample with
  | .next t => t.call (.send t.lastValue)
  | .fault r => .fault r
  | .refused r => .refused r

end Sys2Proof.Machine
end

