-- ==== Sys2Proof/Safety.lean ====
section
/-! DEFINITION. The terms the claims use: the trace of one command and its edges (R15, R19, R51), the snapshots
the environment's script leads to (R185), the reads a trace holds (R122), and the invariants. -/

namespace Sys2Proof.Machine

/-! ## The trace of what led from `s` to `t` -/

/-- The events performed since `s`. -/
def newEvents (s t : State) : List LineEvent := t.trace.drop s.trace.length

/-- The driven levels after a list of events (R26: only SetLevel changes them). -/
def drvAfter (d : Drv) : List LineEvent → Drv
  | [] => d
  | .setLevel l b :: es => drvAfter (d.set l b) es
  | .getLevel _ :: es => drvAfter d es
  | .sleep _ :: es => drvAfter d es

/-- Event `n` is a rising edge of `l`, the lines being at `d` before event 0 (R51). -/
def risingAt (l : DrivenLine) (d : Drv) (es : List LineEvent) (n : Nat) : Bool :=
  match es[n]? with
  | some (.setLevel l' b) => l' == l && rising ((drvAfter d (es.take n)).get l) b
  | _ => false

/-- Event `n` is a falling edge of `l`, the lines being at `d` before event 0 (R51). -/
def fallingAt (l : DrivenLine) (d : Drv) (es : List LineEvent) (n : Nat) : Bool :=
  match es[n]? with
  | some (.setLevel l' b) => l' == l && falling ((drvAfter d (es.take n)).get l) b
  | _ => false

/-- The levels the GetLevel events returned, in order. -/
def samplesOf : List LineEvent → List Level
  | [] => []
  | .getLevel b :: es => b :: samplesOf es
  | .setLevel _ _ :: es => samplesOf es
  | .sleep _ :: es => samplesOf es

/-- The byte of eight sampled levels: "read as a binary number, most significant digit first", each level
inverted (R122). -/
def byteOfSamples (l : List Level) : Byte :=
  BitVec.ofNat 8 (l.foldl (fun n s => 2 * n + (if s then 0 else 1)) 0)

/-- The first raw read of a trace: its first eight samples. -/
def firstRead (es : List LineEvent) : Byte := byteOfSamples ((samplesOf es).take 8)

/-- The second raw read of a trace: its next eight samples. -/
def secondRead (es : List LineEvent) : Byte := byteOfSamples (((samplesOf es).drop 8).take 8)

def LineEvent.isSetLevel : LineEvent → Bool
  | .setLevel _ _ => true
  | .getLevel _ => false
  | .sleep _ => false

def LineEvent.isGetLevel : LineEvent → Bool
  | .setLevel _ _ => false
  | .getLevel _ => true
  | .sleep _ => false

def LineEvent.isSleep : LineEvent → Bool
  | .setLevel _ _ => false
  | .getLevel _ => false
  | .sleep _ => true

/-- The line an event touches; Sleep touches none (R15). -/
def LineEvent.role : LineEvent → Option Role
  | .setLevel l _ => some l.role
  | .getLevel _ => some .dataIn
  | .sleep _ => none

/-! ## What the environment will do, seen from `s` -/

/-- What happens in the gap that `n` further events precede. -/
def State.gapAt (s : State) (n : Nat) : Gap :=
  match s.gaps[n]? with
  | some g => g
  | none =>
    { changes := Config.inputChanges (s.trace.length + n),
      instant := Config.captureInstant (s.trace.length + n),
      ser := Config.serialIn (s.trace.length + n) }

/-- The levels of IN right after `n` further events. -/
def State.linesAt (s : State) : Nat → Byte
  | 0 => s.inLines
  | n + 1 => linesAfter (s.linesAt n) (s.gapAt n).changes

/-- The snapshot of a load strobe whose `SetLevel(load_in, 0)` is event `n` from here (R185). -/
def State.snapshotAt (s : State) (n : Nat) : Byte :=
  captured (s.linesAt (n + 1)) (s.gapAt (n + 1)).changes (s.gapAt (n + 1)).instant

/-! ## Invariants -/

/-- How many words the host has presented so far, seen from a state: those answered, those waiting, and
the one being performed (R75, R76). -/
def State.wordsSeen (s : State) : Nat :=
  s.responses.length + s.pending.length + (match s.seq with | .idle => 0 | .busy _ _ _ => 1)

/-- The last response, 0x000 where there is none. -/
def State.lastResponse (s : State) : ResponseWord := s.responses.getLastD 0#11

/-- Between commands OUT_VALUE is "the most recently committed state of the output register" (R23), and the
output lines are as SEND left them (R35). -/
structure OutputCommitted (s : State) : Prop where
  idle : s.seq = .idle
  committed : ∀ v, s.outValue = some v →
    s.outReg = { cells := v, latches := v } ∧
      s.drv.clockOut = true ∧ s.drv.latchOut = true ∧ s.drv.dataOut = bitOf v 0

end Sys2Proof.Machine
end

