-- ==== Sys2Proof/Certificates/Slice0/Obligations.lean ====
section
/-! DEFINITION. The statements for the provers. `s.seq = .idle` is the spec's own condition for a command to be
accepted (R75); a command issued while BUSY is `CommandHeldUntilIdle`. -/


open Sys2Proof Sys2Proof.Machine

/-! ## Encoding -/

/-- R79: every command's word, and the worked example. -/
def Obligations.EncodingOfEveryCommand : Prop :=
  (∀ v : Byte, encode (.send v) = 0x100#10 ||| v.setWidth 10) ∧
    encode .read = 0x200#10 ∧ encode .sample = 0x300#10 ∧
    encode (.send 0xA5#8) = 0b0110100101#10 ∧ encode (.send 0xA5#8) = 0x1A5#10 ∧
    decode 0x1A5#10 = .ok (.send 0xA5#8) ∧ ∃ e, decode 0x201#10 = .error e

/-- V-DEC-1 to V-DEC-12: words written out bit by bit. -/
def Obligations.DecoderReadsWordsWrittenOut : Prop :=
  decode 0b0000000000#10 = .error .reservedOp ∧
    decode 0b0010100101#10 = .error .reservedOp ∧
    decode 0b0011111111#10 = .error .reservedOp ∧
    decode 0b0100000000#10 = .ok (.send 0x00#8) ∧
    decode 0b0110100101#10 = .ok (.send 0xA5#8) ∧
    decode 0b0111111111#10 = .ok (.send 0xFF#8) ∧
    decode 0b1000000000#10 = .ok .read ∧
    decode 0b1000000001#10 = .error .readData ∧
    decode 0b1011111111#10 = .error .readData ∧
    decode 0b1100000000#10 = .ok .sample ∧
    decode 0b1110000000#10 = .error .sampleData ∧
    decode 0b1111111111#10 = .error .sampleData

/-- R71 and R74: what each of the 1024 words decodes to, by its number. -/
def Obligations.DecoderCoversAllWords : Prop :=
  ∀ w : CommandWord,
    (w.toNat < 0x100 → decode w = .error .reservedOp) ∧
    (0x100 ≤ w.toNat → w.toNat < 0x200 → decode w = .ok (.send (BitVec.ofNat 8 (w.toNat - 0x100)))) ∧
    (w.toNat = 0x200 → decode w = .ok .read) ∧
    (0x200 < w.toNat → w.toNat < 0x300 → decode w = .error .readData) ∧
    (w.toNat = 0x300 → decode w = .ok .sample) ∧
    (0x300 < w.toNat → decode w = .error .sampleData)

/-- Decode and encode agree in both directions, for every command and every word (R72, R74, R79). -/
def Obligations.DecodeEncodeAgree : Prop :=
  ∀ (i : Instr) (w : CommandWord), decode w = .ok i ↔ w = encode i

/-- R77: a command's spelling assembles to its word, no line spells a reserved word, a `;` starts a comment,
and for every line that holds a word: what it assembles to, or why it is refused, by its first word in capitals
and the words after it. What parts words and that a second operand on SEND is refused is log 25; which numbers
an operand writes is `AssemblerReadsOperands`. -/
def Obligations.AssemblerWritesTheEncoding : Prop :=
  (∀ i : Instr, assembleLine (spell i) = .ok (some (encode i))) ∧
    (∀ (line : List Char) (w : CommandWord), assembleLine line = .ok (some w) → ∃ i, decode w = .ok i) ∧
    (∀ x : List Char, assembleLine (';' :: x) = .ok none) ∧
    (∀ x y : List Char, ';' ∉ x → assembleLine (x ++ ';' :: y) = assembleLine x) ∧
    (∀ ws : List (List Char), (∀ w ∈ ws, w ≠ [] ∧ ∀ c ∈ w, isBlank c = false) →
      splitWords (ws.flatMap (fun w => w ++ [' '])) [] = ws) ∧
    (∀ (line m : List Char) (ops : List (List Char)), splitWords (dropComment line) [] = m :: ops →
      (m.map capital ≠ ['S', 'E', 'N', 'D'] → m.map capital ≠ ['R', 'E', 'A', 'D'] →
        m.map capital ≠ ['S', 'A', 'M', 'P', 'L', 'E'] → assembleLine line = .error .unknownMnemonic) ∧
      (m.map capital = ['R', 'E', 'A', 'D'] →
        assembleLine line = if ops = [] then .ok (some 0x200#10) else .error .operandNotAllowed) ∧
      (m.map capital = ['S', 'A', 'M', 'P', 'L', 'E'] →
        assembleLine line = if ops = [] then .ok (some 0x300#10) else .error .operandNotAllowed) ∧
      (m.map capital = ['S', 'E', 'N', 'D'] →
        (ops = [] → assembleLine line = .error .missingOperand) ∧
        (∀ o n, ops = [o] → immNumber o = some n → n < 256 →
          assembleLine line = .ok (some (0x100#10 ||| BitVec.ofNat 10 n))) ∧
        (∀ o n, ops = [o] → immNumber o = some n → 256 ≤ n → assembleLine line = .error .badImmediate) ∧
        (∀ o, ops = [o] → immNumber o = none → assembleLine line = .error .badImmediate) ∧
        (2 ≤ ops.length → assembleLine line = .error .operandNotAllowed))) ∧
    assembleLine ['s', 'e', 'n', 'd', ' ', '1', '6', '5', ' ', ';', 'x'] = .ok (some 0x1A5#10) ∧
    assembleLine ['S', 'e', 'n', 'd', ' ', '0', 'b', '1', '0', '1', '0', '0', '1', '0', '1'] = .ok (some 0x1A5#10) ∧
    assembleLine ['S', 'E', 'N', 'D', ' ', '2', '5', '6'] = .error .badImmediate ∧
    assembleLine ['S', 'E', 'N', 'D'] = .error .missingOperand ∧
    assembleLine ['R', 'E', 'A', 'D', ' ', '0'] = .error .operandNotAllowed ∧
    assembleLine ['S', 'A', 'M', 'P', 'L', 'E', ' ', '1'] = .error .operandNotAllowed ∧
    assembleLine ['N', 'O', 'P'] = .error .unknownMnemonic

/-- R77: the number an operand writes: decimal digits of any length, eight binary digits after `0b`, two
hexadecimal digits of either case after `0x`; any other word writes none. How many digits, and their case, is
the model's choice (log 25). -/
def Obligations.AssemblerReadsOperands : Prop :=
  (∀ ds : List Char, ds ≠ [] → (∀ c ∈ ds, '0' ≤ c ∧ c ≤ '9') →
    immNumber ds = some (ds.foldl (fun n c => 10 * n + (c.toNat - 48)) 0)) ∧
    (∀ ds : List Char, ds.length = 8 → (∀ c ∈ ds, c = '0' ∨ c = '1') →
      immNumber ('0' :: 'b' :: ds) = some (ds.foldl (fun n c => 2 * n + (c.toNat - 48)) 0)) ∧
    (∀ (a b : Nat) (h l : Char), a < 16 → b < 16 → capital h = hexDigit a → capital l = hexDigit b →
      immNumber ['0', 'x', h, l] = some (16 * a + b)) ∧
    ∀ (o : List Char) (n : Nat), immNumber o = some n →
      (o ≠ [] ∧ ∀ c ∈ o, '0' ≤ c ∧ c ≤ '9') ∨
      (∃ ds, o = '0' :: 'b' :: ds ∧ ds.length = 8 ∧ ∀ c ∈ ds, c = '0' ∨ c = '1') ∨
      ∃ h l, o = ['0', 'x', h, l] ∧ ∃ a b, a < 16 ∧ b < 16 ∧ capital h = hexDigit a ∧ capital l = hexDigit b

/-- R76: the three fields of each response, and the words the test vectors give. -/
def Obligations.ResponseWordFormat : Prop :=
  (∀ (k : RespKind) (acc : Bool) (x : Byte),
    respKindBits (respWord k acc x) = k.bits ∧ respAcc (respWord k acc x) = acc ∧
      respValue (respWord k acc x) = x) ∧
    respDone = 0x200#11 ∧ respInvalid = 0x000#11 ∧
    (∀ x : Byte, respRaw x = 0x400#11 ||| x.setWidth 11) ∧
    (∀ x : Byte, respSampled false x = 0x600#11 ||| x.setWidth 11) ∧
    (∀ x : Byte, respSampled true x = 0x700#11 ||| x.setWidth 11)

/-! ## The step, the host's words, SEQ -/

/-- R75: at IDLE the oldest presented word is accepted and its command performed; the step takes the word
from the host and adds nothing else around `exec`. -/
def Obligations.StepRunsTheDecodedCommand : Prop :=
  ∀ (s : State) (w : CommandWord) (ws : List CommandWord) (i : Instr),
    s.config.wf = true → s.seq = .idle → s.pending = w :: ws → decode w = .ok i →
      step s = exec i { s with pending := ws }

/-- R161: an invalid word is rejected: no event, no state written, response INVALID, back at IDLE. -/
def Obligations.InvalidWordIsRejected : Prop :=
  ∀ (s : State) (w : CommandWord) (ws : List CommandWord) (e : InvalidWord),
    s.config.wf = true → s.seq = .idle → s.pending = w :: ws → decode w = .error e →
      step s = .next { s with pending := ws, responses := s.responses ++ [0x000#11] }

/-- R201: nothing runs at reset, and a core with no word presented waits. That waiting is a step that
changes nothing is the model's choice (log 2), and so are the identifiers that make the reset configuration
well-formed (log 12). -/
def Obligations.IdleCoreWaits : Prop :=
  (∀ s : State, s.config.wf = true → s.seq = .idle → s.pending = [] → step s = .next s) ∧
    step State.reset = .next State.reset

/-- R75: while BUSY no word is accepted and none is dropped; the running command ends with one response. -/
def Obligations.WordsAreHeldWhileBusy : Prop :=
  ∀ (s : State) (job : Job) (pos : Nat) (w : Work), s.config.wf = true → s.seq = .busy job pos w →
    ∃ t r, step s = .next t ∧ t.seq = .idle ∧ t.pending = s.pending ∧ t.responses = s.responses ++ [r]

/-- R75: a command presented while BUSY is performed as if presented when the running one has ended. -/
def Obligations.CommandHeldUntilIdle : Prop :=
  ∀ (i : Instr) (s : State), exec i s = exec i s.finish ∧ s.finish.seq = .idle

/-- R211: "once a byte transfer begins, it runs to completion": wherever a command stands, running on ends
in the same state, so nothing done between two of its statements is lost or repeated. -/
def Obligations.RunningCommandEndsTheSame : Prop :=
  ∀ (s : State) (n : Nat), (State.ticks n s).finish = s.finish

/-- Every step ends with the core IDLE (R22: `respond` and `reject` set `SEQ <- IDLE`). -/
def Obligations.EveryStepEndsIdle : Prop :=
  ∀ s t : State, step s = .next t → t.seq = .idle

/-- Every word gets exactly one response and none is dropped: words answered, waiting and being performed
are as many after a step as before it (R75, R76). -/
def Obligations.OneResponsePerWord : Prop :=
  ∀ s t : State, step s = .next t → t.wordsSeen = s.wordsSeen

/-- The core never stops: no exception, no fault (R160, R162, R169). -/
def Obligations.NoStepStops : Prop :=
  (∀ s : State, s.config.wf = true → ∃ t, step s = .next t) ∧ ∀ (s : State) (f : Fault), step s ≠ .fault f

/-! ## Configuration and lines -/

/-- R27: seven distinct identifiers, the two subsets, and the refusal of a configuration without them. R10 and
R30: a window greater than 0; that a window of 0 is refused in the same way is the model's choice (logs 13, 14). -/
def Obligations.IllFormedConfigurationRefused : Prop :=
  (∀ c : Configuration, c.wf = true ↔
    (∀ r r' : Role, c.pins.get r = c.pins.get r' → r = r') ∧ 0 < c.window) ∧
    (∀ r : Role, r.path = .output ↔ r = .clockOut ∨ r = .latchOut ∨ r = .dataOut ∨ r = .enableOut) ∧
    (∀ r : Role, r.path = .input ↔ r = .loadIn ∨ r = .clockIn ∨ r = .dataIn) ∧
    ∀ s : State, ¬ s.config.wf = true → step s = .refused .illFormedConfiguration

/-- Each identifier names one line: what is presented on it is the level of its role (R8, R51). That level is
DRV for the five driven lines, what setup left for `enable_out` (R26), and C[7] for `data_in` (R186, which the
spec itself rests on its general knowledge G3: log 22). -/
def Obligations.IdentifierShowsItsLine : Prop :=
  (∀ (s : State) (r : Role), s.config.wf = true → s.pinLevel (s.config.pins.get r) = some (s.lineLevel r)) ∧
    ∀ s : State, (∀ l : DrivenLine, s.lineLevel l.role = s.drv.get l) ∧ s.lineLevel .enableOut = s.enableOut ∧
      s.lineLevel .dataIn = s.inReg.cells.getLsbD 7

/-- R30, R26: no step writes the configuration or `enable_out`. -/
def Obligations.ConfigurationNeverWritten : Prop :=
  ∀ s t : State, step s = .next t → t.config = s.config ∧ t.enableOut = s.enableOut

/-- R51, R26: SetLevel drives its line and no other, `enable_out` included, and is one event; GetLevel and
Sleep drive none. (What `data_in` shows is C[7]: `IdentifierShowsItsLine`, `InputRegisterLoadsAndShifts`.) -/
def Obligations.SetLevelDrivesOneLine : Prop :=
  (∀ (s : State) (l : DrivenLine) (b : Level),
    (s.setLevel l b).drv.get l = b ∧ (s.setLevel l b).lineLevel l.role = b ∧
      (∀ m, m ≠ l → (s.setLevel l b).drv.get m = s.drv.get m) ∧
      (∀ r, r ≠ l.role → r ≠ .dataIn → (s.setLevel l b).lineLevel r = s.lineLevel r) ∧
      (s.setLevel l b).trace = s.trace ++ [.setLevel l b] ∧
      (s.setLevel l b).seq = s.seq ∧ (s.setLevel l b).outValue = s.outValue ∧
      (s.setLevel l b).sampled = s.sampled ∧ (s.setLevel l b).enableOut = s.enableOut) ∧
    (∀ s : State, s.getLevel.drv = s.drv) ∧ ∀ (s : State) (d : Nat), (s.sleep d).drv = s.drv

/-- R52, R186: GetLevel returns the level on `data_in`, which is C[7] (R186, G3: log 22), and "changes no state of the core or of
any device"; only the environment's gap before it passes. -/
def Obligations.GetLevelChangesNothing : Prop :=
  ∀ s : State, s.getLevel =
    { s with trace := s.trace ++ [LineEvent.getLevel (s.inReg.cells.getLsbD 7)], inLines := s.linesAt 1,
             gaps := s.gaps.drop 1 }

/-- R182: the output register's shift. -/
def Obligations.OutputRegisterShifts : Prop :=
  ∀ (s : State) (l : DrivenLine) (b : Level),
    if l = .clockOut ∧ b = true ∧ s.drv.clockOut = false then
      (s.setLevel l b).outReg.cells.getLsbD 0 = s.drv.dataOut ∧
        ∀ j, j < 7 → (s.setLevel l b).outReg.cells.getLsbD (j + 1) = s.outReg.cells.getLsbD j
    else (s.setLevel l b).outReg.cells = s.outReg.cells

/-- R183: the output latch, all eight bits at once, and at no other time. -/
def Obligations.OutputLatchesCommit : Prop :=
  (∀ (s : State) (l : DrivenLine) (b : Level), (s.setLevel l b).outReg.latches =
    if l = .latchOut ∧ b = true ∧ s.drv.latchOut = false then s.outReg.cells else s.outReg.latches) ∧
    (∀ s : State, s.getLevel.outReg = s.outReg) ∧ ∀ (s : State) (d : Nat), (s.sleep d).outReg = s.outReg

/-- R185, R186: a load strobe's end takes one of the bytes IN showed in the low phase; a rising edge of
`clock_in` while `load_in` is 1 shifts, with any level entering. Every other event leaves the register: a
SetLevel to 1 of a line already at 1, which is no edge (R15, R51), a SetLevel to 0, every SetLevel on the
output path, GetLevel and Sleep. (A rising `clock_in` while `load_in` is 0 is not described: log 26.) -/
def Obligations.InputRegisterLoadsAndShifts : Prop :=
  ∀ s : State,
    (s.drv.loadIn = false →
      (s.setLevel .loadIn true).inReg.cells ∈ s.inLines :: (s.gapAt 0).changes) ∧
    (s.drv.clockIn = false → s.drv.loadIn = true →
      (s.setLevel .clockIn true).inReg.cells.getLsbD 0 = (s.gapAt 0).ser ∧
      ∀ j, j < 7 → (s.setLevel .clockIn true).inReg.cells.getLsbD (j + 1) = s.inReg.cells.getLsbD j) ∧
    (s.drv.loadIn = true → (s.setLevel .loadIn true).inReg = s.inReg) ∧
    (s.drv.clockIn = true → (s.setLevel .clockIn true).inReg = s.inReg) ∧
    (∀ l, (s.setLevel l false).inReg = s.inReg) ∧
    (∀ l b, l.role.path = .output → (s.setLevel l b).inReg = s.inReg) ∧
    s.getLevel.inReg = s.inReg ∧ ∀ d, (s.sleep d).inReg = s.inReg

/-- R184: while `enable_out` is low the outputs show the latches. -/
def Obligations.OutputsShowLatches : Prop :=
  ∀ s : State, s.enableOut = false → ∀ j, j < 8 → s.outputs.getLsbD j = s.outReg.latches.getLsbD j

/-! ## SEND -/

/-- R101: SEND completes, responds DONE, and writes exactly the state R101 lists, by the events of its
pseudocode in order. -/
def Obligations.SendWritesItsState : Prop :=
  ∀ (v : Byte) (s : State), s.seq = .idle →
    ∃ t, exec (.send v) s = .next t ∧ t.seq = .idle ∧ t.outValue = some v ∧
      t.responses = s.responses ++ [0x200#11] ∧
      t.drv = { s.drv with clockOut := true, dataOut := v.getLsbD 0, latchOut := true } ∧
      t.sampled = s.sampled ∧ t.outReg = { cells := v, latches := v } ∧
      t.trace = s.trace ++
        ([7, 6, 5, 4, 3, 2, 1, 0].flatMap (fun i =>
            [LineEvent.setLevel .clockOut false, LineEvent.setLevel .dataOut (v.getLsbD i), LineEvent.setLevel .clockOut true]) ++
          [LineEvent.setLevel .latchOut false, LineEvent.setLevel .latchOut true]) ∧
      encode (.send v) = 0x100#10 ||| v.setWidth 10

/-- R102: the 26 events of SEND by number. -/
def Obligations.SendTraceByNumber : Prop :=
  ∀ (v : Byte) (s : State), s.seq = .idle →
    ∃ t, exec (.send v) s = .next t ∧ (newEvents s t).length = 26 ∧
      (∀ i, i ≤ 7 →
        (newEvents s t)[3 * (7 - i)]? = some (LineEvent.setLevel .clockOut false) ∧
        (newEvents s t)[3 * (7 - i) + 1]? = some (LineEvent.setLevel .dataOut (v.getLsbD i)) ∧
        (newEvents s t)[3 * (7 - i) + 2]? = some (LineEvent.setLevel .clockOut true)) ∧
      (newEvents s t)[24]? = some (LineEvent.setLevel .latchOut false) ∧
      (newEvents s t)[25]? = some (LineEvent.setLevel .latchOut true) ∧
      ∀ e ∈ newEvents s t, e.isSetLevel = true

/-- R103: `data_out` is set only while `clock_out` is low, after SEND itself lowered it and before SEND
raises it again. -/
def Obligations.SendDataSetWhileClockLow : Prop :=
  ∀ (v : Byte) (s : State), s.seq = .idle →
    ∃ t, exec (.send v) s = .next t ∧
      ∀ (pre post : List LineEvent) (b : Level), newEvents s t = pre ++ LineEvent.setLevel .dataOut b :: post →
        (drvAfter s.drv pre).clockOut = false ∧ LineEvent.setLevel .clockOut false ∈ pre ∧
          LineEvent.setLevel .clockOut true ∈ post

/-- R104: the edges of SEND, whatever the levels before it, and the device outcome, which does not depend
on them. -/
def Obligations.SendEdges : Prop :=
  ∀ (v : Byte) (s : State), s.seq = .idle →
    ∃ t, exec (.send v) s = .next t ∧ t.outReg = { cells := v, latches := v } ∧
      (∀ k, k < 8 → (newEvents s t)[3 * k]? = some (LineEvent.setLevel .clockOut false)) ∧
      ∀ n,
        (risingAt .clockOut s.drv (newEvents s t) n = true ↔ n ∈ [2, 5, 8, 11, 14, 17, 20, 23]) ∧
        (risingAt .latchOut s.drv (newEvents s t) n = true ↔ n = 25) ∧
        (fallingAt .clockOut s.drv (newEvents s t) n = true ↔
          (n = 0 ∧ s.drv.clockOut = true) ∨ n ∈ [3, 6, 9, 12, 15, 18, 21]) ∧
        (fallingAt .latchOut s.drv (newEvents s t) n = true ↔ n = 24 ∧ s.drv.latchOut = true)

/-- R105: the level on `data_out` at each rising edge of `clock_out`: bit 7 first, bit 0 last. -/
def Obligations.SendShiftsMostSignificantFirst : Prop :=
  ∀ (v : Byte) (s : State), s.seq = .idle →
    ∃ t, exec (.send v) s = .next t ∧
      ∀ k, k < 8 → risingAt .clockOut s.drv (newEvents s t) (3 * k + 2) = true ∧
        (drvAfter s.drv ((newEvents s t).take (3 * k + 2))).dataOut = v.getLsbD (7 - k)

/-- R106 (and R57, R212): the device outcome of SEND, and what the latches hold at every instant of it: the
previous byte until event 25, `v` from event 25 on, never a partly shifted byte. -/
def Obligations.SendCommitsAtomically : Prop :=
  ∀ (v : Byte) (s : State), s.seq = .idle →
    (∃ t, exec (.send v) s = .next t ∧ t.outReg.cells = v ∧ t.outReg.latches = v ∧
      (t.enableOut = false → t.outputs = v)) ∧
    ∀ n,
      ((State.ticks n (s.accept (.command (.send v)))).trace.length < s.trace.length + 26 →
        (State.ticks n (s.accept (.command (.send v)))).outReg.latches = s.outReg.latches) ∧
      (s.trace.length + 26 ≤ (State.ticks n (s.accept (.command (.send v)))).trace.length →
        (State.ticks n (s.accept (.command (.send v)))).outReg.latches = v)

/-- What SEND leaves unchanged (R28, R31, R101): the configuration, `enable_out`, the input path's lines and
register, SAMPLED, the words waiting; the input lines move only as the environment's 26 gaps say. -/
def Obligations.SendFrame : Prop :=
  ∀ (v : Byte) (s : State), s.seq = .idle →
    ∃ t, exec (.send v) s = .next t ∧ t.config = s.config ∧ t.enableOut = s.enableOut ∧
      t.drv.loadIn = s.drv.loadIn ∧ t.drv.clockIn = s.drv.clockIn ∧ t.inReg = s.inReg ∧
      t.sampled = s.sampled ∧ t.pending = s.pending ∧
      t.responses.take s.responses.length = s.responses ∧ t.trace.take s.trace.length = s.trace ∧
      t.inLines = s.linesAt 26 ∧ t.gaps = s.gaps.drop 26

/-- SEND reads no line: whatever the input side, the environment and SAMPLED are, its events and what it
leaves on the output side are the same (R101: "nothing the environment does changes its trace"). -/
def Obligations.InputsNeverReachSend : Prop :=
  ∀ (v : Byte) (s s' : State), s.seq = .idle → s'.seq = .idle →
    ∃ t t', exec (.send v) s = .next t ∧ exec (.send v) s' = .next t' ∧
      newEvents s t = newEvents s' t' ∧ t.outReg = t'.outReg ∧ t.outValue = t'.outValue ∧
      t.lastResponse = t'.lastResponse

/-! ## READ -/

/-- R122: the byte of READ from the eight levels sampled, and `acc` after each iteration. -/
def Obligations.ReadResultFromSamples : Prop :=
  ∀ s : State, s.seq = .idle →
    ∃ t r, exec .read s = .next t ∧ t.seq = .idle ∧ t.responses = s.responses ++ [respRaw r] ∧
      (samplesOf (newEvents s t)).length = 8 ∧ r = byteOfSamples (samplesOf (newEvents s t)) ∧
      (∀ k, k < 8 → (samplesOf (newEvents s t))[k]? = some (!r.getLsbD (7 - k))) ∧
      ∀ k, k < 8 → ∃ w,
        (State.ticks (3 + 5 * (k + 1)) (s.accept (.command .read))).seq =
          .busy (.command .read) (3 + 5 * (k + 1)) w ∧
        (∀ j, j ≤ k → (samplesOf (newEvents s t))[j]? = some (!w.acc.getLsbD (k - j))) ∧
        ∀ m, k < m → w.acc.getLsbD m = false

/-- R123: the 26 events of READ by number. -/
def Obligations.ReadTraceByNumber : Prop :=
  ∀ s : State, s.seq = .idle →
    ∃ t, exec .read s = .next t ∧ (newEvents s t).length = 26 ∧
      (newEvents s t)[0]? = some (LineEvent.setLevel .loadIn false) ∧
      (newEvents s t)[1]? = some (LineEvent.setLevel .loadIn true) ∧
      (∀ k, k ≤ 7 →
        (newEvents s t)[2 + 3 * k]? = some (LineEvent.setLevel .clockIn false) ∧
        (∃ b, (newEvents s t)[3 + 3 * k]? = some (LineEvent.getLevel b) ∧
          (samplesOf (newEvents s t))[k]? = some b) ∧
        (newEvents s t)[4 + 3 * k]? = some (LineEvent.setLevel .clockIn true)) ∧
      ∀ e ∈ newEvents s t, e.isSleep = false

/-- R126: the edges of READ_SEQ, whatever the levels before it. -/
def Obligations.ReadEdges : Prop :=
  ∀ s : State, s.seq = .idle →
    ∃ t, exec .read s = .next t ∧ (drvAfter s.drv ((newEvents s t).take 1)).loadIn = false ∧
      ∀ n,
        (risingAt .loadIn s.drv (newEvents s t) n = true ↔ n = 1) ∧
        (fallingAt .loadIn s.drv (newEvents s t) n = true ↔ n = 0 ∧ s.drv.loadIn = true) ∧
        (risingAt .clockIn s.drv (newEvents s t) n = true ↔ n ∈ [4, 7, 10, 13, 16, 19, 22, 25]) ∧
        (fallingAt .clockIn s.drv (newEvents s t) n = true ↔
          (n = 2 ∧ s.drv.clockIn = true) ∨ n ∈ [5, 8, 11, 14, 17, 20, 23]) ∧
        (risingAt .clockIn s.drv (newEvents s t) n = true ∨
            fallingAt .clockIn s.drv (newEvents s t) n = true →
          (drvAfter s.drv ((newEvents s t).take n)).loadIn = true)

/-- R127: READ returns the inverted snapshot its strobe took, each sample is the snapshot's bit, and only what
the input lines show up to the end of the strobe (the first two gaps) reaches the result: not the cells
before, not a level entering the chain, not a change after the strobe. -/
def Obligations.ReadReturnsInvertedSnapshot : Prop :=
  (∀ s : State, s.seq = .idle →
    ∃ t, exec .read s = .next t ∧ t.responses = s.responses ++ [respRaw (~~~ s.snapshotAt 0)] ∧
      ∀ k, k < 8 → (samplesOf (newEvents s t))[k]? = some ((s.snapshotAt 0).getLsbD (7 - k))) ∧
    ∀ s s' t t' : State, s.seq = .idle → s'.seq = .idle → exec .read s = .next t → exec .read s' = .next t' →
      s'.inLines = s.inLines → s'.gapAt 0 = s.gapAt 0 → s'.gapAt 1 = s.gapAt 1 →
        t'.lastResponse = t.lastResponse

/-- What READ leaves unchanged (R28, R31, R121, R129): the value state, the output path's lines and
register, the configuration, `enable_out`, the words waiting; it ends with both its lines high. -/
def Obligations.ReadFrame : Prop :=
  ∀ s : State, s.seq = .idle →
    ∃ t, exec .read s = .next t ∧ t.sampled = s.sampled ∧ t.outValue = s.outValue ∧
      t.drv = { s.drv with loadIn := true, clockIn := true } ∧ t.outReg = s.outReg ∧
      t.config = s.config ∧ t.enableOut = s.enableOut ∧ t.pending = s.pending ∧
      t.responses.take s.responses.length = s.responses ∧ t.trace.take s.trace.length = s.trace ∧
      t.inLines = s.linesAt 26 ∧ t.gaps = s.gaps.drop 26

/-! ## SAMPLE -/

/-- R142 (and R143): SAMPLED takes the first read exactly when the two reads are equal; the response carries
`accepted` and SAMPLED after the command; SEND, READ and an invalid word leave SAMPLED alone. -/
def Obligations.SampleAcceptsOnAgreement : Prop :=
  (∀ s : State, s.seq = .idle →
    ∃ t, exec .sample s = .next t ∧ t.seq = .idle ∧
      t.sampled = (if firstRead (newEvents s t) = secondRead (newEvents s t)
        then firstRead (newEvents s t) else s.sampled) ∧
      t.responses = s.responses ++
        [respSampled (decide (firstRead (newEvents s t) = secondRead (newEvents s t))) t.sampled]) ∧
    (∀ (v : Byte) (s t : State), s.seq = .idle → exec (.send v) s = .next t → t.sampled = s.sampled) ∧
    (∀ s t : State, s.seq = .idle → exec .read s = .next t → t.sampled = s.sampled) ∧
    ∀ s : State, s.seq = .idle → s.reject.sampled = s.sampled

/-- R146: one differing bit rejects the byte. -/
def Obligations.SampleRejectsWholeByte : Prop :=
  ∀ (s : State) (j : Nat), s.seq = .idle →
    ∃ t, exec .sample s = .next t ∧
      ((firstRead (newEvents s t)).getLsbD j ≠ (secondRead (newEvents s t)).getLsbD j →
        t.sampled = s.sampled ∧ t.responses = s.responses ++ [respSampled false s.sampled])

/-- R147, with R127: what SAMPLE does for the snapshots of its two strobes; a byte seen at one strobe only is
never accepted, and inputs that show the same byte at both are. -/
def Obligations.SampleFiltersBySnapshots : Prop :=
  ∀ s : State, s.seq = .idle →
    ∃ t, exec .sample s = .next t ∧
      firstRead (newEvents s t) = ~~~ s.snapshotAt 0 ∧ secondRead (newEvents s t) = ~~~ s.snapshotAt 27 ∧
      (∀ P, s.snapshotAt 0 = P → s.snapshotAt 27 = P →
        t.sampled = ~~~ P ∧ t.responses = s.responses ++ [respSampled true (~~~ P)]) ∧
      ∀ x, x ≠ s.sampled → t.sampled = x → s.snapshotAt 0 = ~~~ x ∧ s.snapshotAt 27 = ~~~ x

/-- R144: the 53 events of SAMPLE, whether or not the reads agree. -/
def Obligations.SampleTraceByNumber : Prop :=
  ∀ s : State, s.seq = .idle →
    ∃ t, exec .sample s = .next t ∧ (newEvents s t).length = 53 ∧
      (newEvents s t)[26]? = some (LineEvent.sleep s.config.window) ∧
      (samplesOf (newEvents s t)).length = 16 ∧
      ∀ o, o = 0 ∨ o = 27 →
        (newEvents s t)[o]? = some (LineEvent.setLevel .loadIn false) ∧
        (newEvents s t)[o + 1]? = some (LineEvent.setLevel .loadIn true) ∧
        ∀ k, k ≤ 7 →
          (newEvents s t)[o + 2 + 3 * k]? = some (LineEvent.setLevel .clockIn false) ∧
          (∃ b, (newEvents s t)[o + 3 + 3 * k]? = some (LineEvent.getLevel b) ∧
            (samplesOf (newEvents s t))[(if o = 0 then 0 else 8) + k]? = some b) ∧
          (newEvents s t)[o + 4 + 3 * k]? = some (LineEvent.setLevel .clockIn true)

/-- R145: the settling wait: from the end of the first read to the second strobe, with the wait between,
the core is BUSY, takes no word, and every driven line keeps its level, `load_in` and `clock_in` at 1. -/
def Obligations.SampleWaitHoldsEverything : Prop :=
  ∀ (s : State) (n : Nat), s.seq = .idle →
    s.trace.length + 26 ≤ (State.ticks n (s.accept (.command .sample))).trace.length →
    (State.ticks n (s.accept (.command .sample))).trace.length ≤ s.trace.length + 27 →
      (State.ticks n (s.accept (.command .sample))).seq ≠ .idle ∧
      (State.ticks n (s.accept (.command .sample))).pending = s.pending ∧
      (State.ticks n (s.accept (.command .sample))).responses = s.responses ∧
      (State.ticks n (s.accept (.command .sample))).drv = { s.drv with loadIn := true, clockIn := true }

/-- What SAMPLE leaves unchanged (R28, R31, R141): OUT_VALUE, the output path's lines and register, the
configuration, `enable_out`, the words waiting; it ends with both its lines high. -/
def Obligations.SampleFrame : Prop :=
  ∀ s : State, s.seq = .idle →
    ∃ t, exec .sample s = .next t ∧ t.outValue = s.outValue ∧
      t.drv = { s.drv with loadIn := true, clockIn := true } ∧ t.outReg = s.outReg ∧
      t.config = s.config ∧ t.enableOut = s.enableOut ∧ t.pending = s.pending ∧
      t.responses.take s.responses.length = s.responses ∧ t.trace.take s.trace.length = s.trace ∧
      t.inLines = s.linesAt 53 ∧ t.gaps = s.gaps.drop 53

/-- R148: no further memory: two SAMPLEs with the same reads and the same SAMPLED before answer and leave
the same, whatever else differs. -/
def Obligations.SampleHasNoFurtherMemory : Prop :=
  ∀ s s' t t' : State, s.seq = .idle → s'.seq = .idle → exec .sample s = .next t → exec .sample s' = .next t' →
    s.sampled = s'.sampled →
    firstRead (newEvents s t) = firstRead (newEvents s' t') →
    secondRead (newEvents s t) = secondRead (newEvents s' t') →
      t.sampled = t'.sampled ∧ t.lastResponse = t'.lastResponse ∧ t.seq = .idle ∧ t'.seq = .idle

/-- R149 and R206 for the first word after reset: a SAMPLE right after reset whose two reads disagree answers
`(0, P_SAMPLED_RESET)`, for every value of every parameter; and the reads do disagree where the snapshots of the
two strobes do (R127, through R186 on the spec's general knowledge G3: log 22). -/
def Obligations.RejectionAfterResetAnswersResetValue : Prop :=
  ∀ p : Params, ∃ t, exec .sample (State.resetWith p) = .next t ∧
    (firstRead (newEvents (State.resetWith p) t) ≠ secondRead (newEvents (State.resetWith p) t) →
      t.sampled = p.sampledReset ∧ t.responses = [respSampled false p.sampledReset]) ∧
    ((State.resetWith p).snapshotAt 0 ≠ (State.resetWith p).snapshotAt 27 →
      firstRead (newEvents (State.resetWith p) t) ≠ secondRead (newEvents (State.resetWith p) t))

/-! ## Whole-machine rules -/

/-- R35: the line levels after each command and after a rejected word. -/
def Obligations.LineLevelsAfterEachCommand : Prop :=
  (∀ (v : Byte) (s : State), s.seq = .idle → ∃ t, exec (.send v) s = .next t ∧
    t.drv.clockOut = true ∧ t.drv.latchOut = true ∧ t.drv.dataOut = v.getLsbD 0 ∧
      t.drv.loadIn = s.drv.loadIn ∧ t.drv.clockIn = s.drv.clockIn) ∧
    (∀ (i : Instr) (s : State), (i = .read ∨ i = .sample) → s.seq = .idle → ∃ t, exec i s = .next t ∧
      t.drv.loadIn = true ∧ t.drv.clockIn = true ∧ t.drv.clockOut = s.drv.clockOut ∧
        t.drv.latchOut = s.drv.latchOut ∧ t.drv.dataOut = s.drv.dataOut) ∧
    ∀ s : State, s.seq = .idle → s.reject.drv = s.drv

/-- R218: the event counts of each command and of a rejected word. -/
def Obligations.EventCounts : Prop :=
  ∀ s : State, s.seq = .idle →
    (∀ v, ∃ t, exec (.send v) s = .next t ∧ (newEvents s t).countP LineEvent.isSetLevel = 26 ∧
      (newEvents s t).countP LineEvent.isGetLevel = 0 ∧ (newEvents s t).countP LineEvent.isSleep = 0 ∧
      (newEvents s t).length = 26) ∧
    (∃ t, exec .read s = .next t ∧ (newEvents s t).countP LineEvent.isSetLevel = 18 ∧
      (newEvents s t).countP LineEvent.isGetLevel = 8 ∧ (newEvents s t).countP LineEvent.isSleep = 0 ∧
      (newEvents s t).length = 26) ∧
    (∃ t, exec .sample s = .next t ∧ (newEvents s t).countP LineEvent.isSetLevel = 36 ∧
      (newEvents s t).countP LineEvent.isGetLevel = 16 ∧ (newEvents s t).countP LineEvent.isSleep = 1 ∧
      LineEvent.sleep s.config.window ∈ newEvents s t ∧ (newEvents s t).length = 53) ∧
    newEvents s s.reject = []

/-- R28, R100, R120: SetLevel is on driven lines only and GetLevel on `data_in` only, and each command touches
its own path's lines only, never `enable_out`. -/
def Obligations.EventsStayOnTheirPath : Prop :=
  (∀ (e : LineEvent) (r : Role), e.role = some r →
    (e.isSetLevel = true ∧ r.direction = .drive) ∨ (e.isGetLevel = true ∧ r.direction = .sample)) ∧
  (∀ (v : Byte) (s : State), s.seq = .idle → ∃ t, exec (.send v) s = .next t ∧
    ∀ e ∈ newEvents s t, ∃ r, e.role = some r ∧ (r = .clockOut ∨ r = .dataOut ∨ r = .latchOut)) ∧
    ∀ (i : Instr) (s : State), (i = .read ∨ i = .sample) → s.seq = .idle → ∃ t, exec i s = .next t ∧
      ∀ e ∈ newEvents s t, ∀ r, e.role = some r →
        (e.isSetLevel = true ∧ (r = .loadIn ∨ r = .clockIn)) ∨ (e.isGetLevel = true ∧ r = .dataIn)

/-- R23, R24, R31: over all words: only SAMPLE changes SAMPLED; only SEND changes OUT_VALUE and the output
register, and only to its operand, and the three lines of the output path; only READ and SAMPLE change the two
lines of the input path and the input register. -/
def Obligations.OnlyOwnersWrite : Prop :=
  ∀ (s t : State) (w : CommandWord) (ws : List CommandWord),
    s.seq = .idle → s.pending = w :: ws → step s = .next t →
      (t.sampled ≠ s.sampled → decode w = .ok .sample) ∧
      (t.outValue ≠ s.outValue → ∃ v, decode w = .ok (.send v) ∧ t.outValue = some v) ∧
      (t.outReg ≠ s.outReg → ∃ v, decode w = .ok (.send v) ∧ t.outReg = { cells := v, latches := v }) ∧
      (t.drv.clockOut ≠ s.drv.clockOut ∨ t.drv.latchOut ≠ s.drv.latchOut ∨ t.drv.dataOut ≠ s.drv.dataOut →
        ∃ v, decode w = .ok (.send v)) ∧
      (t.drv.loadIn ≠ s.drv.loadIn ∨ t.drv.clockIn ≠ s.drv.clockIn ∨ t.inReg ≠ s.inReg →
        decode w = .ok .read ∨ decode w = .ok .sample)

/-- Every step keeps OUT_VALUE equal to what the output register has committed (R23: "the most recently
committed state of the output register"; R106, R108). -/
def Obligations.StepKeepsOutputCommitted : Prop :=
  ∀ s t : State, OutputCommitted s → step s = .next t → OutputCommitted t

/-- The invariant of `StepKeepsOutputCommitted` holds at reset, for every value of every parameter. -/
def Obligations.ResetIsOutputCommitted : Prop :=
  (∀ p : Params, OutputCommitted (State.resetWith p)) ∧ OutputCommitted State.reset

/-- R33: every element at its reset value, for every value of the parameters; the reset state has the
spec's open parameters (uninterpreted constants: logs 7 to 11). -/
def Obligations.ResetValues : Prop :=
  (∀ p : Params, (State.resetWith p).seq = .idle ∧ (State.resetWith p).outValue = none ∧
    (State.resetWith p).sampled = p.sampledReset ∧ (State.resetWith p).drv = p.lineInit ∧
    (State.resetWith p).enableOut = p.enableOut ∧ (State.resetWith p).outReg = p.outDevInit ∧
    (State.resetWith p).inReg = p.inDevInit) ∧
    State.reset.seq = .idle ∧ State.reset.outValue = none ∧ State.reset.sampled = Config.sampledReset ∧
    (∀ l, State.reset.drv.get l = Config.lineInit l) ∧ State.reset.enableOut = Config.enableOutInit ∧
    State.reset.outReg = { cells := Config.outCellsInit, latches := Config.outLatchesInit } ∧
    State.reset.inReg = { cells := Config.inCellsInit }

/-- R23, R108: OUT_VALUE read before the first SEND faults; SEND writes it with its operand, and READ, SAMPLE
and an invalid word keep it readable as it was. -/
def Obligations.OutValueReadable : Prop :=
  (∀ p : Params, (State.resetWith p).readOutValue = .fault .outValueUnset) ∧
    (∀ (v : Byte) (s : State), s.seq = .idle →
      ∃ t, exec (.send v) s = .next t ∧ t.readOutValue = .next v) ∧
    (∀ (i : Instr) (s : State), (i = .read ∨ i = .sample) → s.seq = .idle →
      ∃ t, exec i s = .next t ∧ t.readOutValue = s.readOutValue) ∧
    ∀ s : State, s.seq = .idle → s.reject.readOutValue = s.readOutValue

/-- R177: with snapshots equal to `P` at both strobes, SAMPLE answers `~P` as accepted, and SEND of the VALUE
it answered leaves `~P` in the latches and in OUT_VALUE; two responses, so exactly one SEND, and 79 events in
all. The reference host's iteration, with a well-formed configuration and no word waiting, is that SAMPLE and
that SEND. The snapshots reach the answer through R186, which the spec rests on its general knowledge G3 (log
22); the host as a definition beside the machine is log 27. -/
def Obligations.StableInputsReachTheOutputs : Prop :=
  ∀ (s : State) (P : Byte), s.seq = .idle → s.snapshotAt 0 = P → s.snapshotAt 27 = P →
    ∃ t u, exec .sample s = .next t ∧ t.lastValue = ~~~ P ∧ exec (.send (~~~ P)) t = .next u ∧
      u.outReg.latches = ~~~ P ∧ u.outValue = some (~~~ P) ∧ u.sampled = ~~~ P ∧
      (u.enableOut = false → u.outputs = ~~~ P) ∧
      u.responses = s.responses ++ [respSampled true (~~~ P), respDone] ∧ (newEvents s u).length = 79 ∧
      (s.config.wf = true → s.pending = [] → controllerIteration s = .next u)

/-- R176: one iteration of the reference host is a SAMPLE and a SEND of SAMPLED as it then stands, whatever ACC
is; so the outputs follow a reading accepted, and the value kept where the reads differ (R143), which before
the first acceptance is `P_SAMPLED_RESET` (R206). The host is a definition beside the machine (log 27). -/
def Obligations.ReferenceLoopSendsLatestAccepted : Prop :=
  ∀ s : State, s.config.wf = true → s.seq = .idle → s.pending = [] →
    ∃ t u, exec .sample s = .next t ∧ exec (.send t.sampled) t = .next u ∧ controllerIteration s = .next u ∧
      u.sampled = t.sampled ∧ u.outValue = some t.sampled ∧ u.outReg.latches = t.sampled ∧
      (firstRead (newEvents s t) ≠ secondRead (newEvents s t) → u.outReg.latches = s.sampled) ∧
      u.seq = .idle ∧ u.pending = []
end

