-- ==== Sys2Proof/Laws/Assembler.lean ====
section
/-! SUPPORT. What the assembler's parts do: comments dropped, words parted, digits read as a fold, and the word of
a line by its words. -/

namespace Sys2Proof.Machine

/-- A line assembles to what its words parse to. -/
theorem assembleLine_eq {line : List Char} {ws : List (List Char)} (h : splitWords (dropComment line) [] = ws) :
    assembleLine line = (parseWords ws).map (fun i => i.map encode) := by
  rw [assembleLine, h]; cases parseWords ws <;> rfl

/-- A comment is dropped from its `;` on (R77). -/
theorem dropComment_append (x y : List Char) (h : ';' ∉ x) : dropComment (x ++ ';' :: y) = x := by
  induction x with
  | nil => rfl
  | cons c cs ih =>
    rw [List.mem_cons, not_or] at h
    rw [List.cons_append, dropComment, if_neg (Ne.symm h.1), ih h.2]

/-- A text without `;` is all outside a comment. -/
theorem dropComment_self (x : List Char) (h : ';' ∉ x) : dropComment x = x := by
  induction x with
  | nil => rfl
  | cons c cs ih =>
    rw [List.mem_cons, not_or] at h
    rw [dropComment, if_neg (Ne.symm h.1), ih h.2]

/-- The word in front of a blank ends there. -/
theorem splitWords_word (w rest cur : List Char) (h : ∀ c ∈ w, isBlank c = false) (hne : w ≠ [] ∨ cur ≠ []) :
    splitWords (w ++ ' ' :: rest) cur = (cur.reverse ++ w) :: splitWords rest [] := by
  induction w generalizing cur with
  | nil =>
    have hc : cur ≠ [] := hne.resolve_left (· rfl)
    rw [List.nil_append, splitWords, if_pos (by decide), if_neg (by simpa using hc), List.append_nil]
  | cons c cs ih =>
    rw [List.cons_append, splitWords, if_neg (by simp [h c List.mem_cons_self]),
      ih _ (fun d hd => h d (List.mem_cons_of_mem _ hd)) (.inr (List.cons_ne_nil _ _))]
    simp

/-- Digits under the base are read as one fold, the most significant first. -/
theorem readDigits_fold (base : Nat) (val : Char → Nat) (ds : List Char) (n : Nat)
    (h : ∀ c ∈ ds, digitValue c = some (val c) ∧ val c < base) :
    readDigits base ds n = some (ds.foldl (fun n c => base * n + val c) n) := by
  induction ds generalizing n with
  | nil => rfl
  | cons c cs ih =>
    obtain ⟨hv, hb⟩ := h c List.mem_cons_self
    rw [readDigits, hv]
    simp only [if_pos hb, List.foldl_cons]
    rw [ih _ (fun d hd => h d (List.mem_cons_of_mem _ hd)), Nat.mul_comm]

/-- Whatever is read as digits of a base consists of them. -/
theorem readDigits_some {base : Nat} {ds : List Char} {n m : Nat} (h : readDigits base ds n = some m) :
    ∀ c ∈ ds, ∃ d, digitValue c = some d ∧ d < base := by
  induction ds generalizing n with
  | nil => intro c hc; cases hc
  | cons c cs ih =>
    rw [readDigits] at h
    split at h
    · rename_i d hd
      split at h
      · intro e he
        rcases List.mem_cons.mp he with rfl | he
        · exact ⟨d, hd, ‹_›⟩
        · exact ih h e he
      · cases h
    · cases h

end Sys2Proof.Machine
end

