-- ==== Sys2Proof/Laws/State.lean ====
section
/-! SUPPORT. One lemma per field and update of State: what each named update leaves in each field. -/

namespace Sys2Proof.Machine

/-! ### passGap -/

@[simp] theorem State.passGap_config (s : State) : (s.passGap).config = s.config := rfl
@[simp] theorem State.passGap_seq (s : State) : (s.passGap).seq = s.seq := rfl
@[simp] theorem State.passGap_outValue (s : State) : (s.passGap).outValue = s.outValue := rfl
@[simp] theorem State.passGap_sampled (s : State) : (s.passGap).sampled = s.sampled := rfl
@[simp] theorem State.passGap_drv (s : State) : (s.passGap).drv = s.drv := rfl
@[simp] theorem State.passGap_enableOut (s : State) : (s.passGap).enableOut = s.enableOut := rfl
@[simp] theorem State.passGap_outReg (s : State) : (s.passGap).outReg = s.outReg := rfl
@[simp] theorem State.passGap_inReg (s : State) : (s.passGap).inReg = s.inReg := rfl
@[simp] theorem State.passGap_inLines (s : State) : (s.passGap).inLines = linesAfter s.inLines s.nextGap.changes := rfl
@[simp] theorem State.passGap_gaps (s : State) : (s.passGap).gaps = s.gaps.tail := rfl
@[simp] theorem State.passGap_trace (s : State) : (s.passGap).trace = s.trace := rfl
@[simp] theorem State.passGap_pending (s : State) : (s.passGap).pending = s.pending := rfl
@[simp] theorem State.passGap_responses (s : State) : (s.passGap).responses = s.responses := rfl

/-! ### record -/

@[simp] theorem State.record_config (s : State) (e : LineEvent) : (s.record e).config = s.config := rfl
@[simp] theorem State.record_seq (s : State) (e : LineEvent) : (s.record e).seq = s.seq := rfl
@[simp] theorem State.record_outValue (s : State) (e : LineEvent) : (s.record e).outValue = s.outValue := rfl
@[simp] theorem State.record_sampled (s : State) (e : LineEvent) : (s.record e).sampled = s.sampled := rfl
@[simp] theorem State.record_drv (s : State) (e : LineEvent) : (s.record e).drv = s.drv := rfl
@[simp] theorem State.record_enableOut (s : State) (e : LineEvent) : (s.record e).enableOut = s.enableOut := rfl
@[simp] theorem State.record_outReg (s : State) (e : LineEvent) : (s.record e).outReg = s.outReg := rfl
@[simp] theorem State.record_inReg (s : State) (e : LineEvent) : (s.record e).inReg = s.inReg := rfl
@[simp] theorem State.record_inLines (s : State) (e : LineEvent) : (s.record e).inLines = s.inLines := rfl
@[simp] theorem State.record_gaps (s : State) (e : LineEvent) : (s.record e).gaps = s.gaps := rfl
@[simp] theorem State.record_trace (s : State) (e : LineEvent) : (s.record e).trace = s.trace ++ [e] := rfl
@[simp] theorem State.record_pending (s : State) (e : LineEvent) : (s.record e).pending = s.pending := rfl
@[simp] theorem State.record_responses (s : State) (e : LineEvent) : (s.record e).responses = s.responses := rfl

/-! ### setLevel -/

@[simp] theorem State.setLevel_config (s : State) (l : DrivenLine) (b : Level) : (s.setLevel l b).config = s.config := rfl
@[simp] theorem State.setLevel_seq (s : State) (l : DrivenLine) (b : Level) : (s.setLevel l b).seq = s.seq := rfl
@[simp] theorem State.setLevel_outValue (s : State) (l : DrivenLine) (b : Level) : (s.setLevel l b).outValue = s.outValue := rfl
@[simp] theorem State.setLevel_sampled (s : State) (l : DrivenLine) (b : Level) : (s.setLevel l b).sampled = s.sampled := rfl
@[simp] theorem State.setLevel_drv (s : State) (l : DrivenLine) (b : Level) : (s.setLevel l b).drv = s.drv.set l b := rfl
@[simp] theorem State.setLevel_enableOut (s : State) (l : DrivenLine) (b : Level) : (s.setLevel l b).enableOut = s.enableOut := rfl
@[simp] theorem State.setLevel_inLines (s : State) (l : DrivenLine) (b : Level) : (s.setLevel l b).inLines = linesAfter s.inLines s.nextGap.changes := rfl
@[simp] theorem State.setLevel_gaps (s : State) (l : DrivenLine) (b : Level) : (s.setLevel l b).gaps = s.gaps.tail := rfl
@[simp] theorem State.setLevel_trace (s : State) (l : DrivenLine) (b : Level) : (s.setLevel l b).trace = s.trace ++ [.setLevel l b] := rfl
@[simp] theorem State.setLevel_pending (s : State) (l : DrivenLine) (b : Level) : (s.setLevel l b).pending = s.pending := rfl
@[simp] theorem State.setLevel_responses (s : State) (l : DrivenLine) (b : Level) : (s.setLevel l b).responses = s.responses := rfl

/-! ### getLevel -/

@[simp] theorem State.getLevel_config (s : State) : (s.getLevel).config = s.config := rfl
@[simp] theorem State.getLevel_seq (s : State) : (s.getLevel).seq = s.seq := rfl
@[simp] theorem State.getLevel_outValue (s : State) : (s.getLevel).outValue = s.outValue := rfl
@[simp] theorem State.getLevel_sampled (s : State) : (s.getLevel).sampled = s.sampled := rfl
@[simp] theorem State.getLevel_drv (s : State) : (s.getLevel).drv = s.drv := rfl
@[simp] theorem State.getLevel_enableOut (s : State) : (s.getLevel).enableOut = s.enableOut := rfl
@[simp] theorem State.getLevel_outReg (s : State) : (s.getLevel).outReg = s.outReg := rfl
@[simp] theorem State.getLevel_inReg (s : State) : (s.getLevel).inReg = s.inReg := rfl
@[simp] theorem State.getLevel_inLines (s : State) : (s.getLevel).inLines = linesAfter s.inLines s.nextGap.changes := rfl
@[simp] theorem State.getLevel_gaps (s : State) : (s.getLevel).gaps = s.gaps.tail := rfl
@[simp] theorem State.getLevel_trace (s : State) : (s.getLevel).trace = s.trace ++ [.getLevel s.dataIn] := rfl
@[simp] theorem State.getLevel_pending (s : State) : (s.getLevel).pending = s.pending := rfl
@[simp] theorem State.getLevel_responses (s : State) : (s.getLevel).responses = s.responses := rfl

/-! ### sleep -/

@[simp] theorem State.sleep_config (s : State) (d : Nat) : (s.sleep d).config = s.config := rfl
@[simp] theorem State.sleep_seq (s : State) (d : Nat) : (s.sleep d).seq = s.seq := rfl
@[simp] theorem State.sleep_outValue (s : State) (d : Nat) : (s.sleep d).outValue = s.outValue := rfl
@[simp] theorem State.sleep_sampled (s : State) (d : Nat) : (s.sleep d).sampled = s.sampled := rfl
@[simp] theorem State.sleep_drv (s : State) (d : Nat) : (s.sleep d).drv = s.drv := rfl
@[simp] theorem State.sleep_enableOut (s : State) (d : Nat) : (s.sleep d).enableOut = s.enableOut := rfl
@[simp] theorem State.sleep_outReg (s : State) (d : Nat) : (s.sleep d).outReg = s.outReg := rfl
@[simp] theorem State.sleep_inReg (s : State) (d : Nat) : (s.sleep d).inReg = s.inReg := rfl
@[simp] theorem State.sleep_inLines (s : State) (d : Nat) : (s.sleep d).inLines = linesAfter s.inLines s.nextGap.changes := rfl
@[simp] theorem State.sleep_gaps (s : State) (d : Nat) : (s.sleep d).gaps = s.gaps.tail := rfl
@[simp] theorem State.sleep_trace (s : State) (d : Nat) : (s.sleep d).trace = s.trace ++ [.sleep d] := rfl
@[simp] theorem State.sleep_pending (s : State) (d : Nat) : (s.sleep d).pending = s.pending := rfl
@[simp] theorem State.sleep_responses (s : State) (d : Nat) : (s.sleep d).responses = s.responses := rfl

/-! ### withSeq -/

@[simp] theorem State.withSeq_config (s : State) (q : Seq) : (s.withSeq q).config = s.config := rfl
@[simp] theorem State.withSeq_seq (s : State) (q : Seq) : (s.withSeq q).seq = q := rfl
@[simp] theorem State.withSeq_outValue (s : State) (q : Seq) : (s.withSeq q).outValue = s.outValue := rfl
@[simp] theorem State.withSeq_sampled (s : State) (q : Seq) : (s.withSeq q).sampled = s.sampled := rfl
@[simp] theorem State.withSeq_drv (s : State) (q : Seq) : (s.withSeq q).drv = s.drv := rfl
@[simp] theorem State.withSeq_enableOut (s : State) (q : Seq) : (s.withSeq q).enableOut = s.enableOut := rfl
@[simp] theorem State.withSeq_outReg (s : State) (q : Seq) : (s.withSeq q).outReg = s.outReg := rfl
@[simp] theorem State.withSeq_inReg (s : State) (q : Seq) : (s.withSeq q).inReg = s.inReg := rfl
@[simp] theorem State.withSeq_inLines (s : State) (q : Seq) : (s.withSeq q).inLines = s.inLines := rfl
@[simp] theorem State.withSeq_gaps (s : State) (q : Seq) : (s.withSeq q).gaps = s.gaps := rfl
@[simp] theorem State.withSeq_trace (s : State) (q : Seq) : (s.withSeq q).trace = s.trace := rfl
@[simp] theorem State.withSeq_pending (s : State) (q : Seq) : (s.withSeq q).pending = s.pending := rfl
@[simp] theorem State.withSeq_responses (s : State) (q : Seq) : (s.withSeq q).responses = s.responses := rfl

/-! ### storeOut -/

@[simp] theorem State.storeOut_config (s : State) (v : Byte) : (s.storeOut v).config = s.config := rfl
@[simp] theorem State.storeOut_seq (s : State) (v : Byte) : (s.storeOut v).seq = s.seq := rfl
@[simp] theorem State.storeOut_outValue (s : State) (v : Byte) : (s.storeOut v).outValue = some v := rfl
@[simp] theorem State.storeOut_sampled (s : State) (v : Byte) : (s.storeOut v).sampled = s.sampled := rfl
@[simp] theorem State.storeOut_drv (s : State) (v : Byte) : (s.storeOut v).drv = s.drv := rfl
@[simp] theorem State.storeOut_enableOut (s : State) (v : Byte) : (s.storeOut v).enableOut = s.enableOut := rfl
@[simp] theorem State.storeOut_outReg (s : State) (v : Byte) : (s.storeOut v).outReg = s.outReg := rfl
@[simp] theorem State.storeOut_inReg (s : State) (v : Byte) : (s.storeOut v).inReg = s.inReg := rfl
@[simp] theorem State.storeOut_inLines (s : State) (v : Byte) : (s.storeOut v).inLines = s.inLines := rfl
@[simp] theorem State.storeOut_gaps (s : State) (v : Byte) : (s.storeOut v).gaps = s.gaps := rfl
@[simp] theorem State.storeOut_trace (s : State) (v : Byte) : (s.storeOut v).trace = s.trace := rfl
@[simp] theorem State.storeOut_pending (s : State) (v : Byte) : (s.storeOut v).pending = s.pending := rfl
@[simp] theorem State.storeOut_responses (s : State) (v : Byte) : (s.storeOut v).responses = s.responses := rfl

/-! ### storeSampled -/

@[simp] theorem State.storeSampled_config (s : State) (x : Byte) : (s.storeSampled x).config = s.config := rfl
@[simp] theorem State.storeSampled_seq (s : State) (x : Byte) : (s.storeSampled x).seq = s.seq := rfl
@[simp] theorem State.storeSampled_outValue (s : State) (x : Byte) : (s.storeSampled x).outValue = s.outValue := rfl
@[simp] theorem State.storeSampled_sampled (s : State) (x : Byte) : (s.storeSampled x).sampled = x := rfl
@[simp] theorem State.storeSampled_drv (s : State) (x : Byte) : (s.storeSampled x).drv = s.drv := rfl
@[simp] theorem State.storeSampled_enableOut (s : State) (x : Byte) : (s.storeSampled x).enableOut = s.enableOut := rfl
@[simp] theorem State.storeSampled_outReg (s : State) (x : Byte) : (s.storeSampled x).outReg = s.outReg := rfl
@[simp] theorem State.storeSampled_inReg (s : State) (x : Byte) : (s.storeSampled x).inReg = s.inReg := rfl
@[simp] theorem State.storeSampled_inLines (s : State) (x : Byte) : (s.storeSampled x).inLines = s.inLines := rfl
@[simp] theorem State.storeSampled_gaps (s : State) (x : Byte) : (s.storeSampled x).gaps = s.gaps := rfl
@[simp] theorem State.storeSampled_trace (s : State) (x : Byte) : (s.storeSampled x).trace = s.trace := rfl
@[simp] theorem State.storeSampled_pending (s : State) (x : Byte) : (s.storeSampled x).pending = s.pending := rfl
@[simp] theorem State.storeSampled_responses (s : State) (x : Byte) : (s.storeSampled x).responses = s.responses := rfl

/-! ### respond -/

@[simp] theorem State.respond_config (s : State) (r : ResponseWord) : (s.respond r).config = s.config := rfl
@[simp] theorem State.respond_seq (s : State) (r : ResponseWord) : (s.respond r).seq = .idle := rfl
@[simp] theorem State.respond_outValue (s : State) (r : ResponseWord) : (s.respond r).outValue = s.outValue := rfl
@[simp] theorem State.respond_sampled (s : State) (r : ResponseWord) : (s.respond r).sampled = s.sampled := rfl
@[simp] theorem State.respond_drv (s : State) (r : ResponseWord) : (s.respond r).drv = s.drv := rfl
@[simp] theorem State.respond_enableOut (s : State) (r : ResponseWord) : (s.respond r).enableOut = s.enableOut := rfl
@[simp] theorem State.respond_outReg (s : State) (r : ResponseWord) : (s.respond r).outReg = s.outReg := rfl
@[simp] theorem State.respond_inReg (s : State) (r : ResponseWord) : (s.respond r).inReg = s.inReg := rfl
@[simp] theorem State.respond_inLines (s : State) (r : ResponseWord) : (s.respond r).inLines = s.inLines := rfl
@[simp] theorem State.respond_gaps (s : State) (r : ResponseWord) : (s.respond r).gaps = s.gaps := rfl
@[simp] theorem State.respond_trace (s : State) (r : ResponseWord) : (s.respond r).trace = s.trace := rfl
@[simp] theorem State.respond_pending (s : State) (r : ResponseWord) : (s.respond r).pending = s.pending := rfl
@[simp] theorem State.respond_responses (s : State) (r : ResponseWord) : (s.respond r).responses = s.responses ++ [r] := rfl

/-! ### accept -/

@[simp] theorem State.accept_config (s : State) (job : Job) : (s.accept job).config = s.config := rfl
@[simp] theorem State.accept_seq (s : State) (job : Job) : (s.accept job).seq = .busy job 0 (Work.fresh s.trace.length) := rfl
@[simp] theorem State.accept_outValue (s : State) (job : Job) : (s.accept job).outValue = s.outValue := rfl
@[simp] theorem State.accept_sampled (s : State) (job : Job) : (s.accept job).sampled = s.sampled := rfl
@[simp] theorem State.accept_drv (s : State) (job : Job) : (s.accept job).drv = s.drv := rfl
@[simp] theorem State.accept_enableOut (s : State) (job : Job) : (s.accept job).enableOut = s.enableOut := rfl
@[simp] theorem State.accept_outReg (s : State) (job : Job) : (s.accept job).outReg = s.outReg := rfl
@[simp] theorem State.accept_inReg (s : State) (job : Job) : (s.accept job).inReg = s.inReg := rfl
@[simp] theorem State.accept_inLines (s : State) (job : Job) : (s.accept job).inLines = s.inLines := rfl
@[simp] theorem State.accept_gaps (s : State) (job : Job) : (s.accept job).gaps = s.gaps := rfl
@[simp] theorem State.accept_trace (s : State) (job : Job) : (s.accept job).trace = s.trace := rfl
@[simp] theorem State.accept_pending (s : State) (job : Job) : (s.accept job).pending = s.pending := rfl
@[simp] theorem State.accept_responses (s : State) (job : Job) : (s.accept job).responses = s.responses := rfl

/-! ### present -/

@[simp] theorem State.present_config (s : State) (w : CommandWord) : (s.present w).config = s.config := rfl
@[simp] theorem State.present_seq (s : State) (w : CommandWord) : (s.present w).seq = s.seq := rfl
@[simp] theorem State.present_outValue (s : State) (w : CommandWord) : (s.present w).outValue = s.outValue := rfl
@[simp] theorem State.present_sampled (s : State) (w : CommandWord) : (s.present w).sampled = s.sampled := rfl
@[simp] theorem State.present_drv (s : State) (w : CommandWord) : (s.present w).drv = s.drv := rfl
@[simp] theorem State.present_enableOut (s : State) (w : CommandWord) : (s.present w).enableOut = s.enableOut := rfl
@[simp] theorem State.present_outReg (s : State) (w : CommandWord) : (s.present w).outReg = s.outReg := rfl
@[simp] theorem State.present_inReg (s : State) (w : CommandWord) : (s.present w).inReg = s.inReg := rfl
@[simp] theorem State.present_inLines (s : State) (w : CommandWord) : (s.present w).inLines = s.inLines := rfl
@[simp] theorem State.present_gaps (s : State) (w : CommandWord) : (s.present w).gaps = s.gaps := rfl
@[simp] theorem State.present_trace (s : State) (w : CommandWord) : (s.present w).trace = s.trace := rfl
@[simp] theorem State.present_pending (s : State) (w : CommandWord) : (s.present w).pending = s.pending ++ [w] := rfl
@[simp] theorem State.present_responses (s : State) (w : CommandWord) : (s.present w).responses = s.responses := rfl

/-! ### takeWord -/

@[simp] theorem State.takeWord_config (s : State) : (s.takeWord).config = s.config := rfl
@[simp] theorem State.takeWord_seq (s : State) : (s.takeWord).seq = s.seq := rfl
@[simp] theorem State.takeWord_outValue (s : State) : (s.takeWord).outValue = s.outValue := rfl
@[simp] theorem State.takeWord_sampled (s : State) : (s.takeWord).sampled = s.sampled := rfl
@[simp] theorem State.takeWord_drv (s : State) : (s.takeWord).drv = s.drv := rfl
@[simp] theorem State.takeWord_enableOut (s : State) : (s.takeWord).enableOut = s.enableOut := rfl
@[simp] theorem State.takeWord_outReg (s : State) : (s.takeWord).outReg = s.outReg := rfl
@[simp] theorem State.takeWord_inReg (s : State) : (s.takeWord).inReg = s.inReg := rfl
@[simp] theorem State.takeWord_inLines (s : State) : (s.takeWord).inLines = s.inLines := rfl
@[simp] theorem State.takeWord_gaps (s : State) : (s.takeWord).gaps = s.gaps := rfl
@[simp] theorem State.takeWord_trace (s : State) : (s.takeWord).trace = s.trace := rfl
@[simp] theorem State.takeWord_pending (s : State) : (s.takeWord).pending = s.pending.tail := rfl
@[simp] theorem State.takeWord_responses (s : State) : (s.takeWord).responses = s.responses := rfl

/-! ### Other readings of an updated state -/

@[simp] theorem State.withSeq_nextGap (s : State) (q : Seq) : (s.withSeq q).nextGap = s.nextGap := rfl
@[simp] theorem State.withSeq_dataIn (s : State) (q : Seq) : (s.withSeq q).dataIn = s.dataIn := rfl
@[simp] theorem State.withSeq_withSeq (s : State) (p q : Seq) : (s.withSeq p).withSeq q = s.withSeq q := rfl
@[simp] theorem State.withSeq_respond (s : State) (q : Seq) (r : ResponseWord) :
    (s.withSeq q).respond r = s.respond r := rfl

theorem State.setLevel_outReg (s : State) (l : DrivenLine) (b : Level) :
    (s.setLevel l b).outReg =
      if rising (s.drv.get l) b then s.outReg.onRising l s.drv.dataOut else s.outReg := rfl

theorem State.setLevel_inReg (s : State) (l : DrivenLine) (b : Level) :
    (s.setLevel l b).inReg =
      if rising (s.drv.get l) b then
        s.inReg.onRising l s.drv.loadIn (captured s.inLines s.nextGap.changes s.nextGap.instant) s.nextGap.ser
      else s.inReg := rfl

/-- A falling edge, or no edge, acts on no register (R182, R183, R186). -/
@[simp] theorem State.setLevel_low_outReg (s : State) (l : DrivenLine) : (s.setLevel l false).outReg = s.outReg := rfl
@[simp] theorem State.setLevel_low_inReg (s : State) (l : DrivenLine) : (s.setLevel l false).inReg = s.inReg := rfl

@[simp] theorem rising_false (old : Level) : rising old false = false := rfl
@[simp] theorem rising_true (old : Level) : rising old true = !old := by cases old <;> rfl
@[simp] theorem falling_true (old : Level) : falling old true = false := rfl
@[simp] theorem falling_false (old : Level) : falling old false = old := by cases old <;> rfl

@[simp] theorem Drv.get_set (d : Drv) (l m : DrivenLine) (b : Level) :
    (d.set l b).get m = if l = m then b else d.get m := by cases l <;> cases m <;> rfl

end Sys2Proof.Machine
end

