-- ==== Sys2Proof/Laws/Program.lean ====
section
/-! SUPPORT. Running a command's pseudocode: what any statement leaves alone, and the whole run of a command as
one fold over its statements. -/

namespace Sys2Proof.Machine

/-- The statements of a list, one after another. -/
def runOps : List Op → State → Work → State × Work
  | [], s, w => (s, w)
  | op :: ops, s, w => runOps ops (op.run s w).1 (op.run s w).2

theorem runOps_append (xs ys : List Op) (s : State) (w : Work) :
    runOps (xs ++ ys) s w = runOps ys (runOps xs s w).1 (runOps xs s w).2 := by
  induction xs generalizing s w with
  | nil => rfl
  | cons x xs ih => exact ih _ _

/-! ## What no statement changes -/

@[simp] theorem Op.run_config (op : Op) (s : State) (w : Work) : (op.run s w).1.config = s.config := by
  cases op <;> rfl
@[simp] theorem Op.run_seq (op : Op) (s : State) (w : Work) : (op.run s w).1.seq = s.seq := by
  cases op <;> rfl
@[simp] theorem Op.run_sampled (op : Op) (s : State) (w : Work) : (op.run s w).1.sampled = s.sampled := by
  cases op <;> rfl
@[simp] theorem Op.run_enableOut (op : Op) (s : State) (w : Work) :
    (op.run s w).1.enableOut = s.enableOut := by
  cases op <;> rfl
@[simp] theorem Op.run_pending (op : Op) (s : State) (w : Work) : (op.run s w).1.pending = s.pending := by
  cases op <;> rfl
@[simp] theorem Op.run_responses (op : Op) (s : State) (w : Work) :
    (op.run s w).1.responses = s.responses := by
  cases op <;> rfl

/-- No statement reads or writes SEQ. -/
theorem Op.run_withSeq (op : Op) (s : State) (q : Seq) (w : Work) :
    op.run (s.withSeq q) w = ((op.run s w).1.withSeq q, (op.run s w).2) := by
  cases op <;> rfl

/-- Everything a list of statements leaves alone. -/
structure Untouched (s t : State) : Prop where
  config : t.config = s.config
  seq : t.seq = s.seq
  sampled : t.sampled = s.sampled
  enableOut : t.enableOut = s.enableOut
  pending : t.pending = s.pending
  responses : t.responses = s.responses

theorem runOps_untouched (ops : List Op) (s : State) (w : Work) : Untouched s (runOps ops s w).1 := by
  induction ops generalizing s w with
  | nil => exact ⟨rfl, rfl, rfl, rfl, rfl, rfl⟩
  | cons op ops ih =>
    obtain ⟨h1, h2, h3, h4, h5, h6⟩ := ih (op.run s w).1 (op.run s w).2
    exact ⟨h1.trans (op.run_config s w), h2.trans (op.run_seq s w), h3.trans (op.run_sampled s w),
      h4.trans (op.run_enableOut s w), h5.trans (op.run_pending s w), h6.trans (op.run_responses s w)⟩

/-! ## Acceptance, ticks and the end of a command -/

@[simp] theorem complete_withSeq (s : State) (q : Seq) (job : Job) (w : Work) :
    (s.withSeq q).complete job w = s.complete job w := by
  rcases job with (_ | _ | _) | _
  · rfl
  · rfl
  · simp only [State.complete, State.completeSample]; cases agree w.a w.b <;> rfl
  · rfl

/-- How each kind of work ends (R76, R101, R121, R161). -/
theorem complete_send (s : State) (v : Byte) (w : Work) :
    s.complete (.command (.send v)) w = s.respond respDone := rfl
theorem complete_read (s : State) (w : Work) : s.complete (.command .read) w = s.respond (respRaw w.acc) := rfl
theorem complete_sample (s : State) (w : Work) : s.complete (.command .sample) w = s.completeSample w := rfl
theorem complete_invalid (s : State) (w : Work) : s.complete .invalid w = s.respond respInvalid := rfl

/-- The statements each kind of work consists of. -/
theorem ops_send (v : Byte) (c : Configuration) : Job.ops (.command (.send v)) c = sendOps v := rfl
theorem ops_read (c : Configuration) : Job.ops (.command .read) c = readSeqOps := rfl
theorem ops_sample (c : Configuration) : Job.ops (.command .sample) c = sampleOps c.window := rfl
theorem ops_invalid (c : Configuration) : Job.ops .invalid c = [] := rfl

theorem tick_idle {s : State} (h : s.seq = .idle) : s.tick = s := by
  unfold State.tick; rw [h]

theorem ticks_idle {s : State} (h : s.seq = .idle) (n : Nat) : State.ticks n s = s := by
  induction n with
  | zero => rfl
  | succ n ih => rw [State.ticks, tick_idle h, ih]

theorem ticks_add (m n : Nat) (s : State) : State.ticks (m + n) s = State.ticks n (State.ticks m s) := by
  induction m generalizing s with
  | zero => simp [State.ticks]
  | succ m ih => rw [Nat.succ_add, State.ticks, ih]; rfl

theorem tick_busy {s : State} {job : Job} {pos : Nat} {w : Work} {op : Op}
    (h : (job.ops s.config)[pos]? = some op) :
    (s.withSeq (.busy job pos w)).tick = (op.run s w).1.withSeq (.busy job (pos + 1) (op.run s w).2) := by
  simp only [State.tick, State.withSeq_seq, State.withSeq_config, h, Op.run_withSeq, State.withSeq_withSeq]

theorem tick_end {s : State} {job : Job} {pos : Nat} {w : Work} (h : (job.ops s.config)[pos]? = none) :
    (s.withSeq (.busy job pos w)).tick = s.complete job w := by
  simp only [State.tick, State.withSeq_seq, State.withSeq_config, h, complete_withSeq]

/-- The first ticks of what is running perform its next statements, one each. -/
theorem ticks_busy (ops rest : List Op) {s : State} {job : Job} {pos : Nat} {w : Work}
    (h : (job.ops s.config).drop pos = ops ++ rest) :
    State.ticks ops.length (s.withSeq (.busy job pos w)) =
      (runOps ops s w).1.withSeq (.busy job (pos + ops.length) (runOps ops s w).2) := by
  induction ops generalizing s pos w with
  | nil => rfl
  | cons op ops ih =>
    have hop : (job.ops s.config)[pos]? = some op := by
      have := congrArg (·[0]?) h
      simpa using this
    rw [List.length_cons, State.ticks, tick_busy hop, ih (s := (op.run s w).1)]
    · simp [runOps, Nat.add_comm, Nat.add_left_comm]
    · have := congrArg (List.drop 1) h
      simpa [Nat.add_comm] using this

/-- What is running is run to its end by performing the statements left and then ending it. -/
theorem finish_busy (s : State) (job : Job) (pos : Nat) (w : Work) :
    (s.withSeq (.busy job pos w)).finish =
      (runOps ((job.ops s.config).drop pos) s w).1.complete job
        (runOps ((job.ops s.config).drop pos) s w).2 := by
  have hrem : (s.withSeq (.busy job pos w)).remaining = ((job.ops s.config).drop pos).length + 1 := by
    simp [State.remaining]
  rw [State.finish, hrem, ticks_add, ticks_busy _ [] (by simp)]
  rw [show State.ticks 1 = State.tick from rfl, tick_end]
  rw [(runOps_untouched _ s w).config]
  simp only [List.length_drop]
  rw [List.getElem?_eq_none]; omega

theorem finish_idle {s : State} (h : s.seq = .idle) : s.finish = s := ticks_idle h _

theorem withSeq_self {s : State} {q : Seq} (h : s.seq = q) : s.withSeq q = s := by cases s; cases h; rfl

@[simp] theorem complete_idle (s : State) (job : Job) (w : Work) : (s.complete job w).seq = .idle := by
  rcases job with (_ | _ | _) | _ <;> rfl

/-- After `finish` the core is IDLE. -/
theorem finish_seq (s : State) : s.finish.seq = .idle := by
  cases h : s.seq with
  | idle => rw [finish_idle h]; exact h
  | busy job pos w => rw [← withSeq_self h, finish_busy]; exact complete_idle _ _ _

/-- A word accepted at IDLE: its statements in order, then its end. -/
theorem issue_idle {s : State} (h : s.seq = .idle) (job : Job) :
    s.issue job =
      (runOps (job.ops s.config) s (Work.fresh s.trace.length)).1.complete job
        (runOps (job.ops s.config) s (Work.fresh s.trace.length)).2 := by
  rw [State.issue, finish_idle h, State.accept, finish_busy]; rfl

/-- A word issued while BUSY is performed after the running command has ended (R75). -/
theorem issue_finish (s : State) (job : Job) : s.issue job = s.finish.issue job := by
  rw [State.issue, State.issue, finish_idle (finish_seq s)]

theorem issue_seq (s : State) (job : Job) : (s.issue job).seq = .idle := finish_seq _

end Sys2Proof.Machine
end

