-- ==== Sys2Proof/Laws/Events.lean ====
section
/-! SUPPORT. What performing a list of events says of the state: the trace, the driven lines, the environment's
progress (`Performed`), once for every statement and every list of statements. -/

namespace Sys2Proof.Machine

theorem drvAfter_append (d : Drv) (xs ys : List LineEvent) :
    drvAfter d (xs ++ ys) = drvAfter (drvAfter d xs) ys := by
  induction xs generalizing d with
  | nil => rfl
  | cons e es ih => cases e <;> exact ih _

theorem samplesOf_append (xs ys : List LineEvent) : samplesOf (xs ++ ys) = samplesOf xs ++ samplesOf ys := by
  induction xs with
  | nil => rfl
  | cons e es ih => cases e <;> simp [samplesOf, ih]

/-- `t` is `s` after exactly the events `es`, as far as the trace, the driven lines, the environment's script
and the fields no event touches are concerned. -/
structure Performed (es : List LineEvent) (s t : State) : Prop extends Untouched s t where
  trace : t.trace = s.trace ++ es
  drv : t.drv = drvAfter s.drv es
  gaps : t.gaps = s.gaps.drop es.length
  inLines : t.inLines = s.linesAt es.length

namespace Performed

theorem gapAt {es : List LineEvent} {s t : State} (h : Performed es s t) (n : Nat) :
    t.gapAt n = s.gapAt (es.length + n) := by
  simp only [State.gapAt, h.gaps, h.trace, List.getElem?_drop, List.length_append, Nat.add_assoc]

theorem linesAt {es : List LineEvent} {s t : State} (h : Performed es s t) (n : Nat) :
    t.linesAt n = s.linesAt (es.length + n) := by
  induction n with
  | zero => exact h.inLines
  | succ n ih => rw [State.linesAt, ih, h.gapAt]; rfl

theorem snapshotAt {es : List LineEvent} {s t : State} (h : Performed es s t) (n : Nat) :
    t.snapshotAt n = s.snapshotAt (es.length + n) := by
  simp only [State.snapshotAt, h.gapAt, h.linesAt, Nat.add_assoc]

theorem refl (s : State) : Performed [] s s :=
  { config := rfl, seq := rfl, sampled := rfl, enableOut := rfl, pending := rfl, responses := rfl,
    trace := by simp, drv := rfl, gaps := rfl, inLines := rfl }

theorem trans {xs ys : List LineEvent} {s t u : State} (h : Performed xs s t) (k : Performed ys t u) :
    Performed (xs ++ ys) s u :=
  { config := k.config.trans h.config
    seq := k.seq.trans h.seq
    sampled := k.sampled.trans h.sampled
    enableOut := k.enableOut.trans h.enableOut
    pending := k.pending.trans h.pending
    responses := k.responses.trans h.responses
    trace := by rw [k.trace, h.trace, List.append_assoc]
    drv := by rw [k.drv, h.drv, drvAfter_append]
    gaps := by rw [k.gaps, h.gaps, List.drop_drop, List.length_append]
    inLines := by rw [k.inLines, h.linesAt, List.length_append] }

theorem newEvents {es : List LineEvent} {s t : State} (h : Performed es s t) :
    newEvents s t = es := by
  rw [Machine.newEvents, h.trace]; exact List.drop_left

end Performed

/-- A capture takes one of the bytes IN showed in its gap (R185). -/
theorem captured_mem (now : Byte) (cs : List Byte) (n : Nat) : captured now cs n ∈ now :: cs := by
  induction cs generalizing now n with
  | nil => exact List.mem_singleton_self now
  | cons c cs ih => cases n with
    | zero => exact List.mem_cons_self
    | succ n => exact List.mem_cons_of_mem _ (ih c n)

theorem nextGap_eq (s : State) : s.nextGap = s.gapAt 0 := by
  rcases h : s.gaps with _ | ⟨g, gs⟩ <;> simp [State.nextGap, State.gapAt, h]

theorem setLevel_performed (s : State) (l : DrivenLine) (b : Level) :
    Performed [.setLevel l b] s (s.setLevel l b) :=
  { config := rfl, seq := rfl, sampled := rfl, enableOut := rfl, pending := rfl, responses := rfl,
    trace := rfl, drv := rfl, gaps := by simp [List.drop_one],
    inLines := by simp [State.linesAt, nextGap_eq] }

theorem getLevel_performed (s : State) : Performed [.getLevel s.dataIn] s s.getLevel :=
  { config := rfl, seq := rfl, sampled := rfl, enableOut := rfl, pending := rfl, responses := rfl,
    trace := rfl, drv := rfl, gaps := by simp [List.drop_one],
    inLines := by simp [State.linesAt, nextGap_eq] }

theorem sleep_performed (s : State) (d : Nat) : Performed [.sleep d] s (s.sleep d) :=
  { config := rfl, seq := rfl, sampled := rfl, enableOut := rfl, pending := rfl, responses := rfl,
    trace := rfl, drv := rfl, gaps := by simp [List.drop_one],
    inLines := by simp [State.linesAt, nextGap_eq] }

/-- The events of one statement. -/
def Op.events (op : Op) (s : State) : List LineEvent :=
  match op with
  | .set l b => [.setLevel l b]
  | .sampleLine => [.getLevel s.dataIn]
  | .sleep d => [.sleep d]
  | .storeOut _ => []
  | .clearAcc => []
  | .shiftAcc => []
  | .orAcc => []
  | .keepA => []
  | .keepB => []

theorem Op.run_performed (op : Op) (s : State) (w : Work) : Performed (op.events s) s (op.run s w).1 := by
  cases op with
  | set l b => exact setLevel_performed s l b
  | sampleLine => exact getLevel_performed s
  | sleep d => exact sleep_performed s d
  | storeOut v =>
    exact { config := rfl, seq := rfl, sampled := rfl, enableOut := rfl, pending := rfl, responses := rfl,
            trace := (List.append_nil _).symm, drv := rfl, gaps := rfl, inLines := rfl }
  | clearAcc | shiftAcc | orAcc | keepA | keepB => exact Performed.refl s

/-- The events of a list of statements. -/
def opsEvents : List Op → State → Work → List LineEvent
  | [], _, _ => []
  | op :: ops, s, w => op.events s ++ opsEvents ops (op.run s w).1 (op.run s w).2

theorem runOps_performed (ops : List Op) (s : State) (w : Work) :
    Performed (opsEvents ops s w) s (runOps ops s w).1 := by
  induction ops generalizing s w with
  | nil => exact Performed.refl s
  | cons op ops ih => exact (op.run_performed s w).trans (ih _ _)

end Sys2Proof.Machine
end

