-- ==== Sys2Proof/Laws/PerInstr.lean ====
section
/-! SUPPORT. Statements about each command as syntax: its word lies in its row of spec/opcode_table.json. -/

namespace Sys2Proof.Laws.TableRow

/-- The mask of a command's row (R74). -/
def mask : Instr → CommandWord
  | .send _ => 0x300#10
  | .read => 0x3FF#10
  | .sample => 0x3FF#10

/-- The match of a command's row (R74). -/
def fixedBits : Instr → CommandWord
  | .send _ => 0x100#10
  | .read => 0x200#10
  | .sample => 0x300#10

/-- A command is well-formed, and its word has its row's fixed bits. -/
def Statement (i : Instr) : Prop := i.wf = true ∧ encode i &&& mask i = fixedBits i

theorem send (v : Byte) : Statement (.send v) := by
  have h : ∀ v : Byte, encode (.send v) &&& 0x300#10 = 0x100#10 := by decide
  exact ⟨rfl, h v⟩

theorem read : Statement .read := by
  constructor <;> rfl

theorem sample : Statement .sample := by
  constructor <;> rfl

end Sys2Proof.Laws.TableRow
end

