-- ==== Sys2Proof/Laws/Send.lean ====
section
/-! SUPPORT. What SEND's statements do (R101, R102, R106). -/

namespace Sys2Proof.Machine

/-- The events of SEND's loop body for bit `i` (R101). -/
def sendBitEvents (v : Byte) (i : Nat) : List LineEvent :=
  [.setLevel .clockOut false, .setLevel .dataOut (bitOf v i), .setLevel .clockOut true]

/-- The 26 events of SEND (R102). -/
def sendEvents (v : Byte) : List LineEvent :=
  [7, 6, 5, 4, 3, 2, 1, 0].flatMap (sendBitEvents v)
    ++ [.setLevel .latchOut false, .setLevel .latchOut true]

/-- Bits shifted one after another into the output register's cells. -/
def shiftBits (v : Byte) : List Nat → Byte → Byte
  | [], c => c
  | i :: is, c => shiftBits v is (shiftIn c (bitOf v i))

/-- Nothing of the old cells is left after bits 7 downto 0 have been shifted in (R106). -/
theorem shiftBits_all (v c : Byte) : shiftBits v [7, 6, 5, 4, 3, 2, 1, 0] c = v := by
  refine BitVec.eq_of_getLsbD_eq fun j hj => ?_
  simp only [shiftBits, shiftIn, shiftLeft1, zext8, bitOf]
  interval_cases j <;> simp

/-- What a list of statements of SEND leaves: the registers beside the events. -/
structure SendRun (ops : List Op) (s : State) (w : Work) (es : List LineEvent) (r : OutReg) : Prop where
  events : opsEvents ops s w = es
  outReg : (runOps ops s w).1.outReg = r
  outValue : (runOps ops s w).1.outValue = s.outValue
  inReg : (runOps ops s w).1.inReg = s.inReg
  work : (runOps ops s w).2 = w

theorem sendBit_run (v : Byte) (i : Nat) (s : State) (w : Work) :
    SendRun (sendBitOps v i) s w (sendBitEvents v i)
      { s.outReg with cells := shiftIn s.outReg.cells (bitOf v i) } := by
  constructor <;>
    simp [sendBitOps, sendBitEvents, runOps, opsEvents, Op.run, Op.events, State.setLevel_outReg,
      State.setLevel_inReg, OutReg.onRising, InReg.onRising, OutReg.shift, Drv.set, Drv.get]

theorem opsEvents_append (xs ys : List Op) (s : State) (w : Work) :
    opsEvents (xs ++ ys) s w =
      opsEvents xs s w ++ opsEvents ys (runOps xs s w).1 (runOps xs s w).2 := by
  induction xs generalizing s w with
  | nil => rfl
  | cons x xs ih => simp [opsEvents, runOps, ih, List.append_assoc]

theorem SendRun.append {xs ys : List Op} {s : State} {w : Work} {es fs : List LineEvent} {r q : OutReg}
    (h : SendRun xs s w es r) (k : SendRun ys (runOps xs s w).1 (runOps xs s w).2 fs q) :
    SendRun (xs ++ ys) s w (es ++ fs) q where
  events := by rw [opsEvents_append, h.events, k.events]
  outReg := by rw [runOps_append, k.outReg]
  outValue := by rw [runOps_append, k.outValue, h.outValue]
  inReg := by rw [runOps_append, k.inReg, h.inReg]
  work := by rw [runOps_append, k.work, h.work]

theorem sendBits_run (v : Byte) (is : List Nat) (s : State) (w : Work) :
    SendRun (is.flatMap (sendBitOps v)) s w (is.flatMap (sendBitEvents v))
      { s.outReg with cells := shiftBits v is s.outReg.cells } := by
  induction is generalizing s w with
  | nil => exact ⟨rfl, rfl, rfl, rfl, rfl⟩
  | cons i is ih =>
    have h := sendBit_run v i s w
    have k := ih (runOps (sendBitOps v i) s w).1 (runOps (sendBitOps v i) s w).2
    rw [h.outReg] at k
    exact h.append k

theorem latchPulse_run (s : State) (w : Work) :
    SendRun [.set .latchOut false, .set .latchOut true] s w
      [.setLevel .latchOut false, .setLevel .latchOut true]
      { cells := s.outReg.cells, latches := s.outReg.cells } := by
  constructor <;>
    simp [runOps, opsEvents, Op.run, Op.events, State.setLevel_outReg,
      State.setLevel_inReg, OutReg.onRising, InReg.onRising, OutReg.latch]

/-- SEND after its first statement: the bits, then the latch pulse. -/
theorem sendTail_run (v : Byte) (s : State) (w : Work) :
    SendRun ([7, 6, 5, 4, 3, 2, 1, 0].flatMap (sendBitOps v)
        ++ [.set .latchOut false, .set .latchOut true]) s w (sendEvents v)
      { cells := v, latches := v } := by
  have h := sendBits_run v [7, 6, 5, 4, 3, 2, 1, 0] s w
  have k := latchPulse_run (runOps ([7, 6, 5, 4, 3, 2, 1, 0].flatMap (sendBitOps v)) s w).1
    (runOps ([7, 6, 5, 4, 3, 2, 1, 0].flatMap (sendBitOps v)) s w).2
  rw [h.outReg, shiftBits_all] at k
  exact h.append k

theorem runOps_storeOut (v : Byte) (ops : List Op) (s : State) (w : Work) :
    runOps (.storeOut v :: ops) s w = runOps ops (s.storeOut v) w := rfl

theorem opsEvents_storeOut (v : Byte) (ops : List Op) (s : State) (w : Work) :
    opsEvents (.storeOut v :: ops) s w = opsEvents ops (s.storeOut v) w := rfl

/-- Everything SEND's statements do (R101). -/
theorem sendOps_run (v : Byte) (s : State) (w : Work) :
    Performed (sendEvents v) s (runOps (sendOps v) s w).1 ∧
      (runOps (sendOps v) s w).1.outValue = some v ∧
      (runOps (sendOps v) s w).1.outReg = { cells := v, latches := v } ∧
      (runOps (sendOps v) s w).1.inReg = s.inReg := by
  have h := sendTail_run v (s.storeOut v) w
  have hp := runOps_performed (sendOps v) s w
  have he : opsEvents (sendOps v) s w = sendEvents v := by
    rw [sendOps, opsEvents_storeOut, h.events]
  rw [he] at hp
  refine ⟨hp, ?_, ?_, ?_⟩ <;> rw [sendOps, runOps_storeOut]
  · rw [h.outValue, State.storeOut_outValue]
  · exact h.outReg
  · rw [h.inReg, State.storeOut_inReg]

/-- The driven lines after SEND's events (R35, R101). -/
theorem drvAfter_sendEvents (d : Drv) (v : Byte) :
    drvAfter d (sendEvents v) = { d with clockOut := true, dataOut := bitOf v 0, latchOut := true } := by
  simp [sendEvents, sendBitEvents, drvAfter, Drv.set]

theorem sendEvents_length (v : Byte) : (sendEvents v).length = 26 := by simp [sendEvents, sendBitEvents]

/-- SEND at IDLE (R101): what it does to every field of the state. -/
theorem execSend_run (v : Byte) {s : State} (h : s.seq = .idle) :
    ∃ u, Performed (sendEvents v) s u ∧ u.outValue = some v ∧ u.outReg = { cells := v, latches := v } ∧
      u.inReg = s.inReg ∧ execSend v s = .next (u.respond respDone) := by
  obtain ⟨hp, ho, hr, hi⟩ := sendOps_run v s (Work.fresh s.trace.length)
  exact ⟨_, hp, ho, hr, hi, by rw [execSend, issue_idle h, complete_send, ops_send]⟩

end Sys2Proof.Machine
end

