-- ==== Sys2Proof/Laws/Read.lean ====
section
/-! SUPPORT. What READ_SEQ's statements do (R121-R123, R127, R188), and with them READ and SAMPLE. -/

namespace Sys2Proof.Machine

/-- The events of READ_SEQ's iteration `k` for the snapshot `P` (R123, R188). -/
def readBitEvents (P : Byte) (k : Nat) : List LineEvent :=
  [.setLevel .clockIn false, .getLevel (bitOf P (7 - k)), .setLevel .clockIn true]

/-- The 26 events of READ_SEQ for the snapshot `P` (R123). -/
def readSeqEvents (P : Byte) : List LineEvent :=
  [.setLevel .loadIn false, .setLevel .loadIn true] ++ [0, 1, 2, 3, 4, 5, 6, 7].flatMap (readBitEvents P)

/-- Where READ_SEQ stands after `i` iterations on the snapshot `P`: the cells still hold the bits not yet
sampled, `acc` holds those sampled, inverted (R122, R188). -/
structure ReadAt (P : Byte) (i : Nat) (s : State) (w : Work) : Prop where
  loadIn : s.drv.loadIn = true
  cells : ∀ j, i ≤ j → j < 8 → bitOf s.inReg.cells j = bitOf P (j - i)
  acc : ∀ m, m < 8 → bitOf w.acc m = (decide (m < i) && !bitOf P (8 - i + m))

/-- What a list of statements of READ_SEQ leaves alone, and its events. -/
structure ReadRun (ops : List Op) (s : State) (w : Work) (es : List LineEvent) : Prop where
  events : opsEvents ops s w = es
  outReg : (runOps ops s w).1.outReg = s.outReg
  outValue : (runOps ops s w).1.outValue = s.outValue
  keptA : (runOps ops s w).2.a = w.a
  keptB : (runOps ops s w).2.b = w.b

theorem ReadRun.append {xs ys : List Op} {s : State} {w : Work} {es fs : List LineEvent}
    (h : ReadRun xs s w es) (k : ReadRun ys (runOps xs s w).1 (runOps xs s w).2 fs) :
    ReadRun (xs ++ ys) s w (es ++ fs) where
  events := by rw [opsEvents_append, h.events, k.events]
  outReg := by rw [runOps_append, k.outReg, h.outReg]
  outValue := by rw [runOps_append, k.outValue, h.outValue]
  keptA := by rw [runOps_append, k.keptA, h.keptA]
  keptB := by rw [runOps_append, k.keptB, h.keptB]

theorem bitOf_shiftIn_zero (v : Byte) (b : Level) : bitOf (shiftIn v b) 0 = b := by
  simp [bitOf, shiftIn, shiftLeft1, zext8]

theorem bitOf_shiftIn_succ (v : Byte) (b : Level) {j : Nat} (h : j + 1 < 8) :
    bitOf (shiftIn v b) (j + 1) = bitOf v j := by
  have hj : j < 8 := by omega
  simp [bitOf, shiftIn, shiftLeft1, zext8, h, BitVec.getLsbD_eq_getElem hj]

/-- READ's shift and OR are one shift with the inverted level entering (R121, R122). -/
theorem insertSample_shift (acc : Byte) (s : Level) : insertSample (shiftLeft1 acc) s = shiftIn acc (!s) := by
  cases s
  · simp [insertSample, shiftIn, zext8]
  · simp [insertSample, shiftIn, zext8]

theorem readBit_run (s : State) (w : Work) (hl : s.drv.loadIn = true) :
    ReadRun readBitOps s w
        [.setLevel .clockIn false, .getLevel (bitOf s.inReg.cells 7), .setLevel .clockIn true] ∧
      (runOps readBitOps s w).1.drv.loadIn = true ∧
      (∃ ser, (runOps readBitOps s w).1.inReg.cells = shiftIn s.inReg.cells ser) ∧
      (runOps readBitOps s w).2.acc = shiftIn w.acc (!bitOf s.inReg.cells 7) := by
  refine ⟨?_, ?_, ?_, ?_⟩
  · constructor <;>
      simp [readBitOps, runOps, opsEvents, Op.run, Op.events, State.setLevel_outReg, OutReg.onRising,
        State.dataIn, InReg.serialOut]
  · simp [readBitOps, runOps, Op.run, Drv.set, hl]
  · refine ⟨(((s.setLevel .clockIn false).getLevel).nextGap).ser, ?_⟩
    simp [readBitOps, runOps, Op.run, State.setLevel_inReg, InReg.onRising, InReg.shift, Drv.set, Drv.get, hl]
  · rw [← insertSample_shift]
    simp [readBitOps, runOps, Op.run, State.dataIn, InReg.serialOut]

theorem readBit_at {P : Byte} {i : Nat} {s : State} {w : Work} (hi : i < 8) (h : ReadAt P i s w) :
    ReadRun readBitOps s w (readBitEvents P i) ∧
      ReadAt P (i + 1) (runOps readBitOps s w).1 (runOps readBitOps s w).2 := by
  obtain ⟨hr, hl, ⟨ser, hc⟩, ha⟩ := readBit_run s w h.loadIn
  have h7 := h.cells 7 (by omega) (by omega)
  rw [h7] at hr ha
  refine ⟨hr, hl, fun j hj hj8 => ?_, fun m hm => ?_⟩
  · obtain ⟨j, rfl⟩ := Nat.exists_eq_add_of_le' (Nat.le_of_add_left_le hj)
    rw [hc, bitOf_shiftIn_succ _ _ hj8, h.cells j (by omega) (by omega)]
    congr 1; omega
  · rw [ha]
    cases m with
    | zero => rw [bitOf_shiftIn_zero]; simp
    | succ m =>
      rw [bitOf_shiftIn_succ _ _ hm, h.acc m (by omega)]
      by_cases hmi : m < i
      · simp only [hmi, Nat.add_lt_add_right hmi 1, decide_true, Bool.true_and]
        congr 2; omega
      · simp [hmi]

theorem readLoop_at (P : Byte) (n : Nat) : ∀ (i : Nat) (s : State) (w : Work), i + n ≤ 8 → ReadAt P i s w →
    ReadRun (List.replicate n readBitOps).flatten s w ((List.range' i n).flatMap (readBitEvents P)) ∧
      ReadAt P (i + n) (runOps (List.replicate n readBitOps).flatten s w).1
        (runOps (List.replicate n readBitOps).flatten s w).2 := by
  induction n with
  | zero => exact fun i s w _ h => ⟨⟨rfl, rfl, rfl, rfl, rfl⟩, h⟩
  | succ n ih =>
    intro i s w hi h
    obtain ⟨hr, ha⟩ := readBit_at (by omega) h
    obtain ⟨hr', ha'⟩ := ih (i + 1) _ _ (by omega) ha
    rw [List.replicate_succ, List.flatten_cons, List.range'_succ, List.flatMap_cons, runOps_append]
    exact ⟨hr.append hr', by rwa [Nat.add_right_comm i 1 n, Nat.add_assoc i n 1] at ha'⟩

/-- The load strobe and `acc <- 0x00`: the snapshot is taken (R128, R185). -/
theorem strobe_run (s : State) (w : Work) :
    ReadRun [.set .loadIn false, .set .loadIn true, .clearAcc] s w
        [.setLevel .loadIn false, .setLevel .loadIn true] ∧
      ReadAt (s.snapshotAt 0) 0 (runOps [.set .loadIn false, .set .loadIn true, .clearAcc] s w).1
        (runOps [.set .loadIn false, .set .loadIn true, .clearAcc] s w).2 := by
  have hp := setLevel_performed s .loadIn false
  have hc : captured (s.setLevel .loadIn false).inLines (s.setLevel .loadIn false).nextGap.changes
      (s.setLevel .loadIn false).nextGap.instant = s.snapshotAt 0 := by
    rw [nextGap_eq, hp.gapAt, hp.inLines]; rfl
  refine ⟨?_, ?_, ?_, ?_⟩
  · constructor <;>
      simp [runOps, opsEvents, Op.run, Op.events, State.setLevel_outReg, OutReg.onRising]
  · simp [runOps, Op.run, Drv.set]
  · intro j _ _
    simp only [runOps, Op.run, State.setLevel_inReg _ _ true, State.setLevel_drv, Drv.get_set, if_true,
      rising_true, Bool.not_false, InReg.onRising, InReg.load, hc, Nat.sub_zero]
  · intro m _
    simp [runOps, Op.run, bitOf]

/-- Everything READ_SEQ's statements do (R121-R123, R127): the result is the inverted snapshot. -/
theorem readSeqOps_run (s : State) (w : Work) :
    ReadRun readSeqOps s w (readSeqEvents (s.snapshotAt 0)) ∧
      (runOps readSeqOps s w).2.acc = ~~~ s.snapshotAt 0 := by
  obtain ⟨hr, ha⟩ := strobe_run s w
  obtain ⟨hr', ha'⟩ := readLoop_at _ 8 0 _ _ (by omega) ha
  refine ⟨hr.append hr', BitVec.eq_of_getLsbD_eq fun m hm => ?_⟩
  rw [← runOps_append] at ha'
  have := ha'.acc m hm
  simp only [bitOf] at this
  rw [readSeqOps, this]
  simp [hm]

@[simp] theorem readSeqEvents_length (P : Byte) : (readSeqEvents P).length = 26 := by
  simp [readSeqEvents, readBitEvents]

/-- The driven lines after READ_SEQ's events (R35, R121). -/
theorem drvAfter_readSeqEvents (d : Drv) (P : Byte) :
    drvAfter d (readSeqEvents P) = { d with loadIn := true, clockIn := true } := by
  simp [readSeqEvents, readBitEvents, drvAfter, Drv.set]

/-- The samples of READ_SEQ (R188). -/
theorem samplesOf_readSeqEvents (P : Byte) :
    samplesOf (readSeqEvents P) = [7, 6, 5, 4, 3, 2, 1, 0].map (bitOf P) := by
  simp [readSeqEvents, readBitEvents, samplesOf]

/-- READ_SEQ as a whole. -/
theorem readSeq_performed (s : State) (w : Work) :
    Performed (readSeqEvents (s.snapshotAt 0)) s (runOps readSeqOps s w).1 := by
  have h := runOps_performed readSeqOps s w
  rwa [(readSeqOps_run s w).1.events] at h

/-- READ at IDLE (R121, R127): what it does to every field but the input register's cells. -/
theorem execRead_run {s : State} (h : s.seq = .idle) :
    ∃ u, Performed (readSeqEvents (s.snapshotAt 0)) s u ∧ u.outValue = s.outValue ∧ u.outReg = s.outReg ∧
      execRead s = .next (u.respond (respRaw (~~~ s.snapshotAt 0))) := by
  obtain ⟨hr, ha⟩ := readSeqOps_run s (Work.fresh s.trace.length)
  refine ⟨_, readSeq_performed s (Work.fresh s.trace.length), hr.outValue, hr.outReg, ?_⟩
  rw [execRead, issue_idle h, complete_read, ops_read, ha]

/-- The 53 events of SAMPLE for its two snapshots (R144). -/
def sampleEvents (window : Nat) (P Q : Byte) : List LineEvent :=
  readSeqEvents P ++ [.sleep window] ++ readSeqEvents Q

theorem keepA_sleep_run (d : Nat) (s : State) (w : Work) :
    runOps [.keepA, .sleep d] s w = (s.sleep d, { w with a := w.acc }) := rfl

theorem keepB_run (s : State) (w : Work) : runOps [.keepB] s w = (s, { w with b := w.acc }) := rfl

/-- What one read sequence does, for any list of statements that does it. -/
structure ReadsSnapshot (ops : List Op) : Prop where
  run : ∀ s w, ReadRun ops s w (readSeqEvents (s.snapshotAt 0))
  acc : ∀ s w, (runOps ops s w).2.acc = ~~~ s.snapshotAt 0
  performed : ∀ s w, Performed (readSeqEvents (s.snapshotAt 0)) s (runOps ops s w).1

theorem readSeqOps_reads : ReadsSnapshot readSeqOps :=
  ⟨fun s w => (readSeqOps_run s w).1, fun s w => (readSeqOps_run s w).2, readSeq_performed⟩

/-- Two read sequences with the wait between (R141, R144). -/
theorem twoReads_run {ops : List Op} (h : ReadsSnapshot ops) (d : Nat) (s : State) (w : Work) :
    Performed (sampleEvents d (s.snapshotAt 0) (s.snapshotAt 27)) s
        (runOps (ops ++ [Op.keepA, Op.sleep d] ++ ops ++ [Op.keepB]) s w).1 ∧
      (runOps (ops ++ [Op.keepA, Op.sleep d] ++ ops ++ [Op.keepB]) s w).1.outValue = s.outValue ∧
      (runOps (ops ++ [Op.keepA, Op.sleep d] ++ ops ++ [Op.keepB]) s w).1.outReg = s.outReg ∧
      (runOps (ops ++ [Op.keepA, Op.sleep d] ++ ops ++ [Op.keepB]) s w).2.a = ~~~ s.snapshotAt 0 ∧
      (runOps (ops ++ [Op.keepA, Op.sleep d] ++ ops ++ [Op.keepB]) s w).2.b = ~~~ s.snapshotAt 27 := by
  simp only [runOps_append, keepA_sleep_run, keepB_run]
  have p2 := (h.performed s w).trans (sleep_performed (runOps ops s w).1 d)
  have hs : ((runOps ops s w).1.sleep d).snapshotAt 0 = s.snapshotAt 27 := by
    rw [p2.snapshotAt, show (readSeqEvents (s.snapshotAt 0) ++ [LineEvent.sleep d]).length + 0 = 27 by simp]
  have r2 := h.run ((runOps ops s w).1.sleep d) { (runOps ops s w).2 with a := (runOps ops s w).2.acc }
  have p3 := p2.trans (h.performed ((runOps ops s w).1.sleep d)
    { (runOps ops s w).2 with a := (runOps ops s w).2.acc })
  have a2 := h.acc ((runOps ops s w).1.sleep d) { (runOps ops s w).2 with a := (runOps ops s w).2.acc }
  rw [hs] at p3 a2
  exact ⟨p3, r2.outValue.trans (h.run s w).outValue, r2.outReg.trans (h.run s w).outReg,
    r2.keptA.trans (h.acc s w), a2⟩

/-- Everything SAMPLE's statements do before its decision (R141, R144). -/
theorem sampleOps_run (d : Nat) (s : State) (w : Work) :
    Performed (sampleEvents d (s.snapshotAt 0) (s.snapshotAt 27)) s (runOps (sampleOps d) s w).1 ∧
      (runOps (sampleOps d) s w).1.outValue = s.outValue ∧
      (runOps (sampleOps d) s w).1.outReg = s.outReg ∧
      (runOps (sampleOps d) s w).2.a = ~~~ s.snapshotAt 0 ∧
      (runOps (sampleOps d) s w).2.b = ~~~ s.snapshotAt 27 :=
  twoReads_run readSeqOps_reads d s w

/-- SAMPLE at IDLE (R141-R144): what it does to every field but the input register's cells. -/
theorem execSample_run {s : State} (h : s.seq = .idle) :
    ∃ u, Performed (sampleEvents s.config.window (s.snapshotAt 0) (s.snapshotAt 27)) s u ∧
      u.outValue = s.outValue ∧ u.outReg = s.outReg ∧
      execSample s = .next
        ((if agree (~~~ s.snapshotAt 0) (~~~ s.snapshotAt 27) then u.storeSampled (~~~ s.snapshotAt 0) else u).respond
          (respSampled (agree (~~~ s.snapshotAt 0) (~~~ s.snapshotAt 27))
            (if agree (~~~ s.snapshotAt 0) (~~~ s.snapshotAt 27) then ~~~ s.snapshotAt 0 else s.sampled))) := by
  obtain ⟨hp, ho, hr, ha, hb⟩ := sampleOps_run s.config.window s (Work.fresh s.trace.length)
  refine ⟨_, hp, ho, hr, ?_⟩
  rw [execSample, issue_idle h, complete_sample, ops_sample, State.completeSample, ha, hb]
  cases agree (~~~ s.snapshotAt 0) (~~~ s.snapshotAt 27)
  · simp [hp.sampled]
  · simp

/-- An invalid word at IDLE (R161): a response and nothing else. -/
theorem reject_idle {s : State} (h : s.seq = .idle) : s.reject = s.respond respInvalid := by
  rw [State.reject, issue_idle h, complete_invalid, ops_invalid, runOps]

end Sys2Proof.Machine
end

