-- ==== Sys2Proof/Laws/Step.lean ====
section
/-! SUPPORT. What one step can do, said once (`step_cases`, `step_issue`), what a whole command is as a fold over
its statements (`issue_run`). -/

namespace Sys2Proof.Machine

/-- Every command's meaning is its acceptance and its performance to the end. -/
theorem exec_next (i : Instr) (s : State) : exec i s = .next (s.issue (.command i)) := by cases i <;> rfl

/-- Every way a step answers a next state. -/
theorem step_cases {s t : State} (h : step s = .next t) :
    (∃ job pos w, s.seq = .busy job pos w ∧ t = s.finish) ∨
    (s.seq = .idle ∧ s.pending = [] ∧ t = s) ∨
    ∃ w ws, s.seq = .idle ∧ s.pending = w :: ws ∧
      ((∃ i, decode w = .ok i ∧ t = s.takeWord.issue (.command i)) ∨
        ∃ e, decode w = .error e ∧ t = s.takeWord.issue .invalid) := by
  unfold step at h
  split at h
  · split at h
    · cases h; exact .inl ⟨_, _, _, ‹_›, rfl⟩
    · split at h
      · cases h; exact .inr (.inl ⟨‹_›, ‹_›, rfl⟩)
      · refine .inr (.inr ⟨_, _, ‹_›, ‹_›, ?_⟩)
        split at h
        · rw [exec_next] at h; cases h; exact .inl ⟨_, ‹_›, rfl⟩
        · cases h; exact .inr ⟨_, ‹_›, rfl⟩
  · cases h

/-- A step of an IDLE core with a word presented performs one job, which is what that word decodes to. -/
theorem step_issue {s t : State} {w : CommandWord} {ws : List CommandWord} (h : step s = .next t)
    (hs : s.seq = .idle) (hp : s.pending = w :: ws) :
    ∃ job, t = s.takeWord.issue job ∧ ∀ i, job = .command i → decode w = .ok i := by
  obtain ⟨job, pos, w', h1, -⟩ | ⟨-, h2, -⟩ | ⟨w', ws', -, h2, ⟨i, h3, rfl⟩ | ⟨e, -, rfl⟩⟩ := step_cases h
  · simp [hs] at h1
  · simp [hp] at h2
  · rw [hp] at h2; cases h2; exact ⟨_, rfl, by rintro j ⟨⟩; exact h3⟩
  · exact ⟨_, rfl, by rintro j ⟨⟩⟩

/-- What ends a job stores SAMPLED at most and gives one response. -/
theorem complete_eq (s : State) (job : Job) (w : Work) :
    ∃ r x, s.complete job w = (s.storeSampled x).respond r := by
  rcases job with (_ | _ | _) | _
  · exact ⟨_, s.sampled, rfl⟩
  · exact ⟨_, s.sampled, rfl⟩
  · simp only [State.complete, State.completeSample]
    split
    · exact ⟨_, _, rfl⟩
    · exact ⟨_, s.sampled, rfl⟩
  · exact ⟨_, s.sampled, rfl⟩

/-- A job issued at IDLE: its statements in order, then SAMPLED at most and one response. -/
theorem issue_run {s : State} (h : s.seq = .idle) (job : Job) :
    ∃ r x w, s.issue job = ((runOps (job.ops s.config) s w).1.storeSampled x).respond r := by
  obtain ⟨r, x, hc⟩ := complete_eq (runOps (job.ops s.config) s (Work.fresh s.trace.length)).1 job
    (runOps (job.ops s.config) s (Work.fresh s.trace.length)).2
  exact ⟨r, x, _, (issue_idle h job).trans hc⟩

/-- What is running, run to its end: its remaining statements, then SAMPLED at most and one response. -/
theorem finish_run {s : State} {job : Job} {pos : Nat} {w : Work} (h : s.seq = .busy job pos w) :
    ∃ r x, s.finish = ((runOps ((job.ops s.config).drop pos) s w).1.storeSampled x).respond r := by
  obtain ⟨r, x, hc⟩ := complete_eq (runOps ((job.ops s.config).drop pos) s w).1 job
    (runOps ((job.ops s.config).drop pos) s w).2
  have hf := finish_busy s job pos w
  rw [withSeq_self h] at hf
  exact ⟨r, x, hf.trans hc⟩

end Sys2Proof.Machine
end

