-- ==== Sys2Proof/Tests/Slice0.lean ====
section
/-! SUPPORT. The model's own tests. Expected results come from spec/95_test_vectors.md (E-, V-) and the worked
examples of the rules. -/

namespace Sys2Proof.Machine.Tests

/-! ## Small states -/

/-- A gap in which the environment does nothing. -/
def quiet : Gap := { changes := [], instant := 0, ser := false }

/-- A gap in which IN becomes `p` before a capture. -/
def becomes (p : Byte) : Gap := { changes := [p], instant := 1, ser := true }

/-- Parameters in the manner of 95 section 7: lines all 1, outputs enabled, IN at `P`, SAMPLED at `x`. -/
def params (x P : Byte) (gaps : List Gap) : Params :=
  { config := { pins := Config.referencePins, window := 20 }, sampledReset := x,
    lineInit := { clockOut := true, latchOut := true, dataOut := true, loadIn := true, clockIn := true },
    enableOut := false, outDevInit := { cells := 0x00#8, latches := 0x00#8 },
    inDevInit := { cells := 0x3C#8 }, inLines := P, gaps := gaps }

/-- The state after reset with inputs at `P` that stay for the next 60 gaps. -/
def stable (x P : Byte) : State := State.resetWith (params x P (List.replicate 60 quiet))

/-- Inputs at `P`, which become `Q` in the gap that `n` events precede and stay. -/
def changing (x P Q : Byte) (n : Nat) : State :=
  State.resetWith (params x P (List.replicate n quiet ++ becomes Q :: List.replicate 60 quiet))

/-- The state of a next outcome. -/
def after (o : Host.Outcome State Fault Refusal) : State :=
  match o with
  | .next t => t
  | .fault _ => State.reset
  | .refused _ => State.reset

def isNext (o : Host.Outcome State Fault Refusal) : Bool :=
  match o with
  | .next _ => true
  | .fault _ => false
  | .refused _ => false

/-! ## Well-formedness: an ill-formed term for each check (R27, R30) -/

theorem test_wf_reference : (stable 0 0).config.wf = true := by decide

theorem test_wf_refuses_shared_pin :
    Configuration.wf { pins := { Config.referencePins with loadIn := 0 }, window := 20 } = false := by decide

theorem test_wf_refuses_shared_pin_in_one_path :
    PinAssignment.wf { Config.referencePins with dataOut := 1 } = false := by decide

theorem test_wf_refuses_zero_window :
    Configuration.wf { pins := Config.referencePins, window := 0 } = false := by decide

theorem test_instr_wf : Instr.wf (.send 0xFF#8) = true ∧ Instr.wf .read = true ∧ Instr.wf .sample = true := by decide

/-! ## Decoding: words written out from R70, R71 (V-DEC) -/

theorem test_decode_send : decode 0b0110100101#10 = .ok (.send 0xA5#8) := by decide
theorem test_decode_read : decode 0b1000000000#10 = .ok .read := by decide
theorem test_decode_sample : decode 0b1100000000#10 = .ok .sample := by decide
theorem test_decode_reserved : decode 0b0010100101#10 = .error .reservedOp := by decide
theorem test_decode_read_data : decode 0b1000000001#10 = .error .readData := by decide
theorem test_decode_sample_data : decode 0b1110000000#10 = .error .sampleData := by decide
theorem test_table_words : decodeTableWord 16 0x1A5 = some (.send 0xA5#8) ∧ decodeTableWord 16 0x200 = some .read ∧
    decodeTableWord 16 0x300 = some .sample ∧ decodeTableWord 16 0x700 = none := by decide

/-- R73: 766 of the 1024 words are invalid. -/
theorem test_invalid_count : ((List.range 1024).countP fun w => (decodeTableWord 16 w).isNone) = 766 := by decide +kernel

/-! ## The first step after reset runs the word placed (withFetchWord) -/

theorem test_step_runs_placed_word (n : Nat) :
    step (State.reset.withFetchWord n 0x300) = exec .sample State.reset := rfl

theorem test_step_places_invalid : (after (step (State.reset.withFetchWord 16 0x201))).responses = [0x000#11] := by
  decide

/-! ## SEND -/

/-- V-SEND-3, V-SEND-7. -/
theorem test_send_A5 : (after (exec (.send 0xA5#8) (stable 0 0))).outReg = { cells := 0xA5#8, latches := 0xA5#8 } ∧
    (after (exec (.send 0xA5#8) (stable 0 0))).responses = [0x200#11] ∧
    (after (exec (.send 0xA5#8) (stable 0 0))).outValue = some 0xA5#8 := by decide

/-- V-SEND-8: SR after each of the eight rising edges, from `SR = 0xFF`. -/
theorem test_send_cells_by_edge : ([4, 7, 10, 13, 16, 19, 22, 25].map fun n =>
    (State.ticks n (({ stable 0 0 with outReg := { cells := 0xFF#8, latches := 0x11#8 } } : State).accept
      (.command (.send 0xA5#8)))).outReg.cells) =
      [0xFF#8, 0xFE#8, 0xFD#8, 0xFA#8, 0xF4#8, 0xE9#8, 0xD2#8, 0xA5#8] := by decide

/-! ## READ -/

/-- V-READ-3. -/
theorem test_read_4F : (after (exec .read (stable 0 0x4F#8))).responses = [0x4B0#11] := by decide

/-- V-READ-8: every input goes low after the strobe, before event 3. -/
theorem test_read_change_after_strobe : (after (exec .read (changing 0 0x4F#8 0x00#8 2))).responses = [0x4B0#11] := by
  decide

/-! ## SAMPLE -/

/-- V-SAMPLE-1. -/
theorem test_sample_accepts : (after (exec .sample (stable 0 0x4F#8))).responses = [0x7B0#11] ∧
    (after (exec .sample (stable 0 0x4F#8))).sampled = 0xB0#8 := by decide +kernel

/-- V-SAMPLE-2: reads 0xB0 then 0xB1. -/
theorem test_sample_rejects : (after (exec .sample (changing 0x3C#8 0x4F#8 0x4E#8 26))).responses = [0x63C#11] ∧
    (after (exec .sample (changing 0x3C#8 0x4F#8 0x4E#8 26))).sampled = 0x3C#8 := by decide +kernel

/-! ## A change in the low phase of a strobe is captured at either level (R214) -/

theorem test_capture_either : captured 0x00#8 [0xFF#8] 0 = 0x00#8 ∧ captured 0x00#8 [0xFF#8] 1 = 0xFF#8 := by decide

/-! ## The reference host (E6, R177) -/

theorem test_controller : (after (controllerIteration (stable 0x00#8 0x4F#8))).outReg.latches = 0xB0#8 := by decide +kernel

/-- Strobes as in 95 P2 step 3, SAMPLED still at 0x5A: the value kept is forwarded (R176, R206). -/
theorem test_controller_rejects :
    (after (controllerIteration (changing 0x5A#8 0xFE#8 0xFF#8 26))).outReg.latches = 0x5A#8 := by decide +kernel

/-! ## Each statement's hypotheses are met together by a concrete state -/

theorem witness_idle : (stable 0 0).seq = .idle := rfl

/-- StepRunsTheDecodedCommand. -/
theorem witness_step_runs : ((stable 0 0).present 0x1A5#10).config.wf = true ∧
    ((stable 0 0).present 0x1A5#10).seq = .idle ∧ ((stable 0 0).present 0x1A5#10).pending = [0x1A5#10] ∧
    decode 0x1A5#10 = .ok (.send 0xA5#8) := by decide

/-- InvalidWordIsRejected. -/
theorem witness_invalid : ((stable 0 0).present 0x201#10).config.wf = true ∧
    ((stable 0 0).present 0x201#10).seq = .idle ∧ ((stable 0 0).present 0x201#10).pending = [0x201#10] ∧
    decode 0x201#10 = .error .readData := by decide

/-- IdleCoreWaits, NoStepStops, IdentifierShowsItsLine. -/
theorem witness_waits : (stable 0 0).config.wf = true ∧ (stable 0 0).seq = .idle ∧ (stable 0 0).pending = [] := by
  decide

/-- WordsAreHeldWhileBusy. -/
theorem witness_busy : ((stable 0 0).withSeq (.busy (.command .read) 5 ⟨1#8, true, 2#8, 3#8⟩)).config.wf = true ∧
    ((stable 0 0).withSeq (.busy (.command .read) 5 ⟨1#8, true, 2#8, 3#8⟩)).seq =
      .busy (.command .read) 5 ⟨1#8, true, 2#8, 3#8⟩ := by decide

/-- EveryStepEndsIdle, OneResponsePerWord, ConfigurationNeverWritten: a step that answers a next state. -/
theorem witness_step_next : step ((stable 0 0).present 0x201#10) =
    .next (after (step ((stable 0 0).present 0x201#10))) := rfl

/-- IllFormedConfigurationRefused. -/
theorem witness_ill_formed :
    ¬ ({ stable 0 0 with config := { pins := Config.referencePins, window := 0 } } : State).config.wf = true := by
  decide

/-- DecoderCoversAllWords, its clauses at the boundaries of their ranges. -/
theorem witness_word_ranges : (0x0FF#10).toNat < 0x100 ∧ 0x100 ≤ (0x100#10).toNat ∧ (0x1FF#10).toNat < 0x200 ∧
    (0x200#10).toNat = 0x200 ∧ 0x200 < (0x201#10).toNat ∧ (0x2FF#10).toNat < 0x300 ∧
    (0x300#10).toNat = 0x300 ∧ 0x300 < (0x301#10).toNat ∧ 0x300 < (0x3FF#10).toNat := by decide

/-- OutputRegisterShifts and OutputLatchesCommit: a rising and a falling edge. -/
theorem witness_rising : DrivenLine.clockOut = .clockOut ∧ true = true ∧
    ((stable 0 0).setLevel .clockOut false).drv.clockOut = false ∧
    ((stable 0 0).setLevel .latchOut false).drv.latchOut = false := by decide

/-- InputRegisterLoadsAndShifts: the strobe's end, a shift. -/
theorem witness_input_edges : ((stable 0 0).setLevel .loadIn false).drv.loadIn = false ∧
    ((stable 0 0).setLevel .clockIn false).drv.clockIn = false ∧
    ((stable 0 0).setLevel .clockIn false).drv.loadIn = true ∧ DrivenLine.clockOut.role.path = .output := by decide

/-- InputRegisterLoadsAndShifts: both lines at 1, where a SetLevel to 1 is no edge. -/
theorem witness_input_no_edge : (stable 0 0).drv.loadIn = true ∧ (stable 0 0).drv.clockIn = true := by decide

/-- SetLevelDrivesOneLine: another driven line, and `enable_out` among the other roles. -/
theorem witness_other_line : DrivenLine.latchOut ≠ .clockOut ∧ Role.enableOut ≠ DrivenLine.clockOut.role ∧
    Role.enableOut ≠ .dataIn := by decide

/-- OutputsShowLatches. -/
theorem witness_enabled : (stable 0 0).enableOut = false := rfl

/-- SampleRejectsWholeByte: two reads that differ in bit 0. -/
theorem witness_reads_differ :
    (firstRead (newEvents (changing 0 0x4F#8 0x4E#8 26) (after (exec .sample (changing 0 0x4F#8 0x4E#8 26))))).getLsbD 0 ≠
      (secondRead (newEvents (changing 0 0x4F#8 0x4E#8 26)
        (after (exec .sample (changing 0 0x4F#8 0x4E#8 26))))).getLsbD 0 := by decide +kernel

/-- SampleFiltersBySnapshots, StableInputsReachTheOutputs, ReferenceLoopSendsLatestAccepted: both strobes see
0x4F; an accepted new byte; a well-formed configuration and no word waiting. -/
theorem witness_stable_inputs : (stable 0 0x4F#8).seq = .idle ∧
    (stable 0 0x4F#8).config.wf = true ∧ (stable 0 0x4F#8).pending = [] ∧ (stable 0 0x4F#8).snapshotAt 0 = 0x4F#8 ∧
    (stable 0 0x4F#8).snapshotAt 27 = 0x4F#8 ∧ (0xB0#8 : Byte) ≠ (stable 0 0x4F#8).sampled ∧
    (after (exec .sample (stable 0 0x4F#8))).sampled = 0xB0#8 := by decide +kernel

/-- SampleWaitHoldsEverything: the wait's start (43 statements, 26 events) and its end (45 statements, 27). -/
theorem witness_wait : (State.ticks 43 ((stable 0 0).accept (.command .sample))).trace.length = 26 ∧
    (State.ticks 45 ((stable 0 0).accept (.command .sample))).trace.length = 27 := by decide

/-- SampleHasNoFurtherMemory, ReadReturnsInvertedSnapshot: two states that differ beside what counts. -/
theorem witness_two_states :
    (stable 7 0x4F#8).sampled = ({ stable 7 0x4F#8 with inReg := { cells := 0xFF#8 } } : State).sampled ∧
    ({ stable 7 0x4F#8 with inReg := { cells := 0xFF#8 } } : State).seq = .idle ∧
    firstRead (newEvents (stable 7 0x4F#8) (after (exec .sample (stable 7 0x4F#8)))) = 0xB0#8 ∧
    (changing 7 0x4F#8 0x00#8 2).inLines = (stable 7 0x4F#8).inLines ∧
    (changing 7 0x4F#8 0x00#8 2).gapAt 0 = (stable 7 0x4F#8).gapAt 0 ∧
    (changing 7 0x4F#8 0x00#8 2).gapAt 1 = (stable 7 0x4F#8).gapAt 1 := by decide +kernel

/-- SendDataSetWhileClockLow: the second event sets `data_out`. -/
theorem witness_data_event : newEvents (stable 0 0) (after (exec (.send 0xA5#8) (stable 0 0))) =
    [LineEvent.setLevel .clockOut false] ++ LineEvent.setLevel .dataOut true ::
      (newEvents (stable 0 0) (after (exec (.send 0xA5#8) (stable 0 0)))).drop 2 := by decide

/-- SendCommitsAtomically: an instant before event 25 and one after it. -/
theorem witness_latch_instants :
    (State.ticks 26 ((stable 0 0).accept (.command (.send 0xA5#8)))).trace.length < 26 ∧
    26 ≤ (State.ticks 27 ((stable 0 0).accept (.command (.send 0xA5#8)))).trace.length := by decide

/-- AssemblerWritesTheEncoding: a line the assembler takes. -/
theorem witness_line : assembleLine ['R', 'E', 'A', 'D'] = .ok (some 0x200#10) := by decide

/-- AssemblerWritesTheEncoding: a line for each clause on its words, SEND's operand at 255 and at 256. -/
theorem witness_line_words :
    splitWords (dropComment ['s', 'E', 'n', 'd', ' ', '2', '5', '5', ';']) [] = [['s', 'E', 'n', 'd'], ['2', '5', '5']] ∧
    ['s', 'E', 'n', 'd'].map capital = ['S', 'E', 'N', 'D'] ∧ immNumber ['2', '5', '5'] = some 255 ∧
    immNumber ['2', '5', '6'] = some 256 ∧ immNumber ['0', 'x', 'G', '0'] = none ∧
    splitWords (dropComment ['r', 'e', 'a', 'd', ' ', ' ', '0']) [] = [['r', 'e', 'a', 'd'], ['0']] ∧
    ['r', 'e', 'a', 'd'].map capital = ['R', 'E', 'A', 'D'] ∧
    splitWords (dropComment ['s', 'a', 'm', 'p', 'l', 'e']) [] = [['s', 'a', 'm', 'p', 'l', 'e']] ∧
    ['s', 'a', 'm', 'p', 'l', 'e'].map capital = ['S', 'A', 'M', 'P', 'L', 'E'] ∧
    splitWords (dropComment ['N', 'O', 'P']) [] = [['N', 'O', 'P']] ∧ ';' ∉ ['N', 'O', 'P'] ∧
    isBlank 'N' = false := by decide

/-- AssemblerReadsOperands: the three forms, hexadecimal in either case, at the ends of their ranges. -/
theorem witness_operands : immNumber ['0', '0', '9'] = some 9 ∧ immNumber ['1', '0', '0', '0'] = some 1000 ∧
    immNumber ['0', 'b', '1', '1', '1', '1', '1', '1', '1', '1'] = some 255 ∧
    capital 'f' = hexDigit 15 ∧ capital 'F' = hexDigit 15 ∧ capital '0' = hexDigit 0 ∧
    immNumber ['0', 'x', 'f', 'F'] = some 255 := by decide

/-- RejectionAfterResetAnswersResetValue: snapshots that differ, and so do the reads. -/
theorem witness_disagree : (changing 0 0x7F#8 0xFF#8 26).snapshotAt 0 ≠ (changing 0 0x7F#8 0xFF#8 26).snapshotAt 27 ∧
    firstRead (newEvents (changing 0 0x7F#8 0xFF#8 26) (after (exec .sample (changing 0 0x7F#8 0xFF#8 26)))) ≠
      secondRead (newEvents (changing 0 0x7F#8 0xFF#8 26)
        (after (exec .sample (changing 0 0x7F#8 0xFF#8 26)))) := by decide +kernel

/-- OnlyOwnersWrite: a SEND changes OUT_VALUE and the output register, a SAMPLE changes SAMPLED. -/
theorem witness_owners :
    (after (step ((stable 0 0x4F#8).present 0x1A5#10))).outValue ≠ (stable 0 0x4F#8).outValue ∧
    (after (step ((stable 0 0x4F#8).present 0x1A5#10))).outReg ≠ (stable 0 0x4F#8).outReg ∧
    (after (step ((stable 0 0x4F#8).present 0x300#10))).sampled ≠ (stable 0 0x4F#8).sampled ∧
    (after (step ((stable 0 0x4F#8).present 0x200#10))).inReg ≠ (stable 0 0x4F#8).inReg := by decide +kernel

/-- The state of `stable` with the five driven lines low, as setup may leave them (R26). -/
def linesLow : State :=
  { stable 0 0x4F#8 with
    drv := { clockOut := false, latchOut := false, dataOut := false, loadIn := false, clockIn := false } }

/-- OnlyOwnersWrite: SEND raises the three lines of the output path and READ the two of the input path. -/
theorem witness_owner_lines : linesLow.seq = .idle ∧ (linesLow.present 0x1A5#10).pending = [0x1A5#10] ∧
    isNext (step (linesLow.present 0x1A5#10)) = true ∧
    (after (step (linesLow.present 0x1A5#10))).drv =
      { clockOut := true, latchOut := true, dataOut := true, loadIn := false, clockIn := false } ∧
    (after (step (linesLow.present 0x200#10))).drv =
      { clockOut := false, latchOut := false, dataOut := false, loadIn := true, clockIn := true } := by decide +kernel

/-- StepKeepsOutputCommitted: a state with a value committed meets the invariant. -/
theorem witness_committed : OutputCommitted
    { stable 0 0 with
      outValue := some 0xA5#8, outReg := { cells := 0xA5#8, latches := 0xA5#8 } } :=
  ⟨rfl, by rintro v ⟨⟩; decide⟩

end Sys2Proof.Machine.Tests
end

section
/-! PROOFS. The lines of the pins and the input register: what each identifier shows, and which event changes
the register's cells. -/

namespace Sys2Proof.Machine

/-! ## The identifiers -/

/-- Distinct identifiers, said of the lookup by role (R8, R27). -/
theorem pins_wf_iff_injective (p : PinAssignment) : p.wf = true ↔ Function.Injective p.get := by
  have hall : ∀ r : Role, r ∈ Role.all := fun r => by cases r <;> decide
  have hnodup : p.wf = true ↔ (Role.all.map p.get).Nodup := decide_eq_true_iff
  rw [hnodup, List.nodup_map_iff_inj_on (by decide)]
  exact ⟨fun h r r' e => h r (hall r) r' (hall r') e, fun h r _ r' _ e => h e⟩

/-- The lookup by identifier finds the role that has it and no other. -/
theorem find_role_of_injective {p : PinAssignment} (h : Function.Injective p.get) (r : Role) :
    Role.all.find? (fun r' => p.get r' == p.get r) = some r := by
  have hsame : (fun r' => p.get r' == p.get r) = fun r' => r' == r :=
    funext fun r' => by simp [h.eq_iff]
  rw [hsame]
  cases r <;> decide

theorem pinLevel_get {s : State} (h : s.config.wf = true) (r : Role) :
    s.pinLevel (s.config.pins.get r) = some (s.lineLevel r) := by
  obtain ⟨hpins, -⟩ := Bool.and_eq_true_iff.mp h
  rw [State.pinLevel, find_role_of_injective ((pins_wf_iff_injective _).mp hpins), Option.map_some]

/-- A driven line shows its element of DRV (R26). -/
@[simp] theorem lineLevel_role (s : State) (l : DrivenLine) : s.lineLevel l.role = s.drv.get l := by
  cases l <;> rfl

/-- Settles O17: distinct identifiers make the lookup by identifier find the role asked for. -/
theorem identifierShowsItsLine : Obligations.IdentifierShowsItsLine :=
  ⟨fun _ r h => pinLevel_get h r, fun s => ⟨lineLevel_role s, rfl, rfl⟩⟩

/-! ## The input register -/

/-- SetLevel to the level a line already has is no edge (R15, R51). -/
theorem setLevel_inReg_of_no_edge {s : State} {l : DrivenLine} {b : Level} (h : s.drv.get l = b) :
    (s.setLevel l b).inReg = s.inReg := by
  rw [State.setLevel_inReg, h]
  cases b <;> rfl

/-- The output path's lines do not reach the input register (R28, R185, R186). -/
theorem setLevel_inReg_of_output {l : DrivenLine} (h : l.role.path = .output) (s : State) (b : Level) :
    (s.setLevel l b).inReg = s.inReg := by
  have hkeep : ∀ loadIn p ser, s.inReg.onRising l loadIn p ser = s.inReg := by
    intro loadIn p ser
    cases l with
    | clockOut | latchOut | dataOut => rfl
    | loadIn | clockIn => cases h
  rw [State.setLevel_inReg, hkeep, ite_self]

/-- The end of a load strobe takes the byte captured in the gap before it (R185). -/
theorem setLevel_loadIn_rising {s : State} (h : s.drv.loadIn = false) :
    (s.setLevel .loadIn true).inReg =
      { cells := captured s.inLines (s.gapAt 0).changes (s.gapAt 0).instant } := by
  simp [State.setLevel_inReg, Drv.get, h, InReg.onRising, InReg.load, nextGap_eq]

/-- A rising `clock_in` shifts SER in while `load_in` is 1 (R186). -/
theorem setLevel_clockIn_rising {s : State} (hc : s.drv.clockIn = false) (hl : s.drv.loadIn = true) :
    (s.setLevel .clockIn true).inReg = { cells := shiftIn s.inReg.cells (s.gapAt 0).ser } := by
  simp [State.setLevel_inReg, Drv.get, hc, hl, InReg.onRising, InReg.shift, nextGap_eq]

/-- Settles O23: a capture takes a byte of its gap, a shift moves each cell up by one, and the other events make
no edge or act on no input register. -/
theorem inputRegisterLoadsAndShifts : Obligations.InputRegisterLoadsAndShifts := by
  intro s
  refine ⟨fun hl => ?load, fun hc hl => ?shift, setLevel_inReg_of_no_edge (l := .loadIn),
    setLevel_inReg_of_no_edge (l := .clockIn),
    s.setLevel_low_inReg, fun _ b h => setLevel_inReg_of_output h s b, s.getLevel_inReg, s.sleep_inReg⟩
  case load =>
    rw [setLevel_loadIn_rising hl]
    exact captured_mem _ _ _
  case shift =>
    rw [setLevel_clockIn_rising hc hl]
    exact ⟨bitOf_shiftIn_zero _ _, fun j hj => bitOf_shiftIn_succ _ _ (Nat.succ_lt_succ hj)⟩

end Sys2Proof.Machine
end

section
/-! PROOFS. What one job does at IDLE, and with it the frames, the owners and the invariant of committed outputs. -/

namespace Sys2Proof.Machine

/-! ## A job accepted at IDLE -/

/-- `t` is `s` after exactly the events `es` and one response, but for SAMPLED, OUT_VALUE and the two registers. -/
structure Answered (es : List LineEvent) (s t : State) : Prop where
  config : t.config = s.config
  enableOut : t.enableOut = s.enableOut
  pending : t.pending = s.pending
  responses : ∃ r, t.responses = s.responses ++ [r]
  trace : t.trace = s.trace ++ es
  drv : t.drv = drvAfter s.drv es
  gaps : t.gaps = s.gaps.drop es.length
  inLines : t.inLines = s.linesAt es.length

/-- A job that stores SAMPLED at most and responds when its events are performed. -/
theorem Performed.answered {es : List LineEvent} {s u : State} (h : Performed es s u) (x : Byte) (r : ResponseWord) :
    Answered es s ((u.storeSampled x).respond r) where
  config := h.config
  enableOut := h.enableOut
  pending := h.pending
  responses := ⟨r, by simp [h.responses]⟩
  trace := h.trace
  drv := h.drv
  gaps := h.gaps
  inLines := h.inLines

theorem Answered.responses_take {es : List LineEvent} {s t : State} (h : Answered es s t) :
    t.responses.take s.responses.length = s.responses := by
  obtain ⟨r, hr⟩ := h.responses
  rw [hr, List.take_left]

theorem Answered.trace_take {es : List LineEvent} {s t : State} (h : Answered es s t) :
    t.trace.take s.trace.length = s.trace := by
  rw [h.trace, List.take_left]

theorem Answered.newEvents_eq {es : List LineEvent} {s t : State} (h : Answered es s t) : newEvents s t = es := by
  rw [newEvents, h.trace, List.drop_left]

/-- SEND (R101): its events, OUT_VALUE and the output register at its operand. -/
theorem issue_send (v : Byte) {s : State} (h : s.seq = .idle) :
    Answered (sendEvents v) s (s.issue (.command (.send v))) ∧
      (s.issue (.command (.send v))).outValue = some v ∧
      (s.issue (.command (.send v))).outReg = { cells := v, latches := v } ∧
      (s.issue (.command (.send v))).inReg = s.inReg ∧
      (s.issue (.command (.send v))).sampled = s.sampled := by
  obtain ⟨u, hp, ho, hr, hi, he⟩ := execSend_run v h
  have ht : s.issue (.command (.send v)) = u.respond respDone := Host.Outcome.next.inj he
  rw [ht]
  exact ⟨hp.answered u.sampled _, ho, hr, hi, hp.sampled⟩

/-- READ (R121): its events, with the output side's state and SAMPLED kept. -/
theorem issue_read {s : State} (h : s.seq = .idle) :
    Answered (readSeqEvents (s.snapshotAt 0)) s (s.issue (.command .read)) ∧
      (s.issue (.command .read)).outValue = s.outValue ∧
      (s.issue (.command .read)).outReg = s.outReg ∧
      (s.issue (.command .read)).sampled = s.sampled := by
  obtain ⟨u, hp, ho, hr, he⟩ := execRead_run h
  have ht : s.issue (.command .read) = u.respond (respRaw (~~~ s.snapshotAt 0)) := Host.Outcome.next.inj he
  rw [ht]
  exact ⟨hp.answered u.sampled _, ho, hr, hp.sampled⟩

/-- SAMPLE (R141): its events, with the output side's state kept. -/
theorem issue_sample {s : State} (h : s.seq = .idle) :
    Answered (sampleEvents s.config.window (s.snapshotAt 0) (s.snapshotAt 27)) s (s.issue (.command .sample)) ∧
      (s.issue (.command .sample)).outValue = s.outValue ∧
      (s.issue (.command .sample)).outReg = s.outReg := by
  obtain ⟨u, hp, ho, hr, he⟩ := execSample_run h
  have ht := Host.Outcome.next.inj ((exec_next .sample s).symm.trans he)
  rw [ht]
  split
  · exact ⟨hp.answered _ _, ho, hr⟩
  · exact ⟨hp.answered u.sampled _, ho, hr⟩

/-- An invalid word (R161): a response and nothing else. -/
theorem issue_invalid {s : State} (h : s.seq = .idle) : s.issue .invalid = s.respond respInvalid := reject_idle h

@[simp] theorem sampleEvents_length (d : Nat) (P Q : Byte) : (sampleEvents d P Q).length = 53 := by
  simp [sampleEvents]

/-- The driven lines after SAMPLE's events (R35, R141). -/
theorem drvAfter_sampleEvents (d : Drv) (n : Nat) (P Q : Byte) :
    drvAfter d (sampleEvents n P Q) = { d with loadIn := true, clockIn := true } := by
  simp [sampleEvents, drvAfter_append, drvAfter_readSeqEvents, drvAfter]

/-- What READ and SAMPLE do to the output side and to the driven lines (R28, R31, R35). -/
theorem issue_input {i : Instr} (hi : i = .read ∨ i = .sample) {s : State} (h : s.seq = .idle) :
    (s.issue (.command i)).outValue = s.outValue ∧ (s.issue (.command i)).outReg = s.outReg ∧
      (s.issue (.command i)).drv = { s.drv with loadIn := true, clockIn := true } := by
  rcases hi with rfl | rfl
  · obtain ⟨ha, ho, hr, -⟩ := issue_read h
    exact ⟨ho, hr, ha.drv.trans (drvAfter_readSeqEvents _ _)⟩
  · obtain ⟨ha, ho, hr⟩ := issue_sample h
    exact ⟨ho, hr, ha.drv.trans (drvAfter_sampleEvents _ _ _ _)⟩

/-- The driven lines after SEND (R35). -/
theorem issue_send_drv (v : Byte) {s : State} (h : s.seq = .idle) :
    (s.issue (.command (.send v))).drv =
      { s.drv with clockOut := true, dataOut := bitOf v 0, latchOut := true } :=
  (issue_send v h).1.drv.trans (drvAfter_sendEvents _ _)

/-! ## Outputs committed: OUT_VALUE, the output register and its lines (R23, R108) -/

/-- SEND commits its operand; the other jobs keep what the invariant speaks of. -/
theorem OutputCommitted.issue {s : State} (h : OutputCommitted s) (job : Job) : OutputCommitted (s.issue job) := by
  have hinput : ∀ i : Instr, i = .read ∨ i = .sample → OutputCommitted (s.issue (.command i)) := by
    intro i hi
    obtain ⟨ho, hr, hd⟩ := issue_input hi h.idle
    refine ⟨issue_seq _ _, fun v hv => ?_⟩
    rw [hr, hd]
    exact h.committed v (ho ▸ hv)
  rcases job with (v | _ | _) | _
  case command.send =>
    obtain ⟨-, ho, hr, -⟩ := issue_send v h.idle
    refine ⟨issue_seq _ _, fun x hx => ?_⟩
    obtain rfl : v = x := Option.some.inj (ho.symm.trans hx)
    rw [issue_send_drv v h.idle]
    exact ⟨hr, rfl, rfl, rfl⟩
  case command.read => exact hinput .read (.inl rfl)
  case command.sample => exact hinput .sample (.inr rfl)
  case invalid =>
    rw [issue_invalid h.idle]
    exact ⟨rfl, h.committed⟩

theorem OutputCommitted.takeWord {s : State} (h : OutputCommitted s) : OutputCommitted s.takeWord :=
  ⟨h.idle, h.committed⟩

/-- Settles O50: an IDLE core waits or performs one job, and each job keeps the invariant. -/
theorem stepKeepsOutputCommitted : Obligations.StepKeepsOutputCommitted := by
  intro s t h hstep
  obtain ⟨job, pos, w, hbusy, -⟩ | ⟨-, -, rfl⟩ | ⟨w, ws, -, -, ⟨i, -, rfl⟩ | ⟨e, -, rfl⟩⟩ := step_cases hstep
  · cases h.idle.symm.trans hbusy
  · exact h
  · exact h.takeWord.issue _
  · exact h.takeWord.issue _

theorem outputCommitted_resetWith (p : Params) : OutputCommitted (State.resetWith p) :=
  ⟨rfl, fun _ hv => nomatch hv⟩

/-- Settles O51: at reset there is no OUT_VALUE. -/
theorem resetIsOutputCommitted : Obligations.ResetIsOutputCommitted :=
  ⟨outputCommitted_resetWith, outputCommitted_resetWith _⟩

/-! ## What every step keeps -/

/-- Settles O13: what was running has ended, nothing ran, or a whole job was performed. -/
theorem everyStepEndsIdle : Obligations.EveryStepEndsIdle := by
  intro s t hstep
  obtain ⟨_, _, _, -, rfl⟩ | ⟨hidle, -, rfl⟩ | ⟨_, _, -, -, ⟨_, -, rfl⟩ | ⟨_, -, rfl⟩⟩ := step_cases hstep
  · exact finish_seq _
  · exact hidle
  · exact issue_seq _ _
  · exact issue_seq _ _

/-- What is running, run to its end, writes neither the configuration nor `enable_out`. -/
theorem finish_config_enableOut (s : State) : s.finish.config = s.config ∧ s.finish.enableOut = s.enableOut := by
  cases h : s.seq with
  | idle => rw [finish_idle h]; exact ⟨rfl, rfl⟩
  | busy job pos w =>
    obtain ⟨r, x, hf⟩ := finish_run h
    have hu := runOps_untouched ((job.ops s.config).drop pos) s w
    rw [hf]
    exact ⟨hu.config, hu.enableOut⟩

/-- No job writes them either, at whatever state it is issued. -/
theorem issue_config_enableOut (s : State) (job : Job) :
    (s.issue job).config = s.config ∧ (s.issue job).enableOut = s.enableOut := by
  obtain ⟨hc, he⟩ := finish_config_enableOut s
  obtain ⟨hc', he'⟩ := finish_config_enableOut (s.finish.accept job)
  exact ⟨hc'.trans hc, he'.trans he⟩

/-- Settles O18: a step runs what is running to its end, waits, or issues one job. -/
theorem configurationNeverWritten : Obligations.ConfigurationNeverWritten := by
  intro s t hstep
  obtain ⟨_, _, _, -, rfl⟩ | ⟨-, -, rfl⟩ | ⟨_, _, -, -, ⟨_, -, rfl⟩ | ⟨_, -, rfl⟩⟩ := step_cases hstep
  · exact finish_config_enableOut s
  · exact ⟨rfl, rfl⟩
  · exact issue_config_enableOut s.takeWord _
  · exact issue_config_enableOut s.takeWord _

/-! ## The configuration -/

/-- A well-formed configuration, role by role (R10, R27). -/
theorem configuration_wf_iff (c : Configuration) : c.wf = true ↔
    (∀ r r' : Role, c.pins.get r = c.pins.get r' → r = r') ∧ 0 < c.window := by
  rw [Configuration.wf, Bool.and_eq_true, pins_wf_iff_injective, decide_eq_true_iff]
  rfl

theorem step_refused {s : State} (h : ¬ s.config.wf = true) : step s = .refused .illFormedConfiguration := by
  rw [step, if_neg h]

/-- Settles O16: well-formedness is injectivity of the lookup and the window's bound; `step` tests it first. -/
theorem illFormedConfigurationRefused : Obligations.IllFormedConfigurationRefused :=
  ⟨configuration_wf_iff, fun r => by cases r <;> simp [Role.path], fun r => by cases r <;> simp [Role.path],
    fun _ h => step_refused h⟩

/-! ## What each command leaves unchanged -/

/-- Settles O31: SEND's events name the output path's lines only, and its statements no input register. -/
theorem sendFrame : Obligations.SendFrame := by
  intro v s h
  obtain ⟨ha, -, -, hi, hs⟩ := issue_send v h
  have hd := issue_send_drv v h
  have hl := sendEvents_length v
  exact ⟨_, exec_next _ _, ha.config, ha.enableOut, by rw [hd], by rw [hd], hi, hs,
    ha.pending, ha.responses_take, ha.trace_take, hl ▸ ha.inLines, hl ▸ ha.gaps⟩

/-- Settles O37: READ's 26 events leave its two lines high and the output side alone. -/
theorem readFrame : Obligations.ReadFrame := by
  intro s h
  obtain ⟨ha, ho, hr, hs⟩ := issue_read h
  obtain ⟨-, -, hd⟩ := issue_input (.inl rfl) h
  have hl := readSeqEvents_length (s.snapshotAt 0)
  exact ⟨_, exec_next _ _, hs, ho, hd, hr, ha.config, ha.enableOut, ha.pending, ha.responses_take, ha.trace_take,
    hl ▸ ha.inLines, hl ▸ ha.gaps⟩

/-- Settles O43: SAMPLE's 53 events leave its two lines high and the output side alone. -/
theorem sampleFrame : Obligations.SampleFrame := by
  intro s h
  obtain ⟨ha, ho, hr⟩ := issue_sample h
  obtain ⟨-, -, hd⟩ := issue_input (.inr rfl) h
  have hl := sampleEvents_length s.config.window (s.snapshotAt 0) (s.snapshotAt 27)
  exact ⟨_, exec_next _ _, ho, hd, hr, ha.config, ha.enableOut, ha.pending, ha.responses_take, ha.trace_take,
    hl ▸ ha.inLines, hl ▸ ha.gaps⟩

/-- Settles O46: the levels are those SEND's and the input commands' events end with; a rejection has no event. -/
theorem lineLevelsAfterEachCommand : Obligations.LineLevelsAfterEachCommand := by
  refine ⟨fun v s h => ⟨_, exec_next _ _, ?_⟩, fun i s hi h => ⟨_, exec_next _ _, ?_⟩, fun s h => ?_⟩
  · rw [issue_send_drv v h]
    exact ⟨rfl, rfl, rfl, rfl, rfl⟩
  · obtain ⟨-, -, hd⟩ := issue_input hi h
    rw [hd]
    exact ⟨rfl, rfl, rfl, rfl, rfl⟩
  · rw [reject_idle h, State.respond_drv]

/-! ## The lines each command's events touch -/

/-- SetLevel names a driven line and GetLevel the sampled one (R28). -/
theorem event_role_direction (e : LineEvent) (r : Role) (h : e.role = some r) :
    (e.isSetLevel = true ∧ r.direction = .drive) ∨ (e.isGetLevel = true ∧ r.direction = .sample) := by
  cases e with
  | setLevel l b =>
    obtain rfl : l.role = r := Option.some.inj h
    exact .inl ⟨rfl, by cases l <;> rfl⟩
  | getLevel b =>
    obtain rfl : Role.dataIn = r := Option.some.inj h
    exact .inr ⟨rfl, rfl⟩
  | sleep d => cases h

/-- SEND's events are on the output path's driven lines (R100). -/
theorem role_of_mem_sendEvents {v : Byte} {e : LineEvent} (h : e ∈ sendEvents v) :
    ∃ r, e.role = some r ∧ (r = .clockOut ∨ r = .dataOut ∨ r = .latchOut) := by
  rcases List.mem_append.mp h with h | h
  · obtain ⟨i, -, h⟩ := List.mem_flatMap.mp h
    simp only [sendBitEvents, List.mem_cons, List.not_mem_nil, or_false] at h
    rcases h with rfl | rfl | rfl
    · exact ⟨.clockOut, rfl, .inl rfl⟩
    · exact ⟨.dataOut, rfl, .inr (.inl rfl)⟩
    · exact ⟨.clockOut, rfl, .inl rfl⟩
  · simp only [List.mem_cons, List.not_mem_nil, or_false] at h
    rcases h with rfl | rfl
    · exact ⟨.latchOut, rfl, .inr (.inr rfl)⟩
    · exact ⟨.latchOut, rfl, .inr (.inr rfl)⟩

/-- An event that touches no line but the input path's: it drives `load_in` or `clock_in`, or samples `data_in` (R120). -/
def LineEvent.OnInputPath (e : LineEvent) : Prop :=
  ∀ r, e.role = some r →
    (e.isSetLevel = true ∧ (r = .loadIn ∨ r = .clockIn)) ∨ (e.isGetLevel = true ∧ r = .dataIn)

theorem onInputPath_setLoadIn (b : Level) : (LineEvent.setLevel .loadIn b).OnInputPath :=
  fun _ h => .inl ⟨rfl, .inl (Option.some.inj h).symm⟩

theorem onInputPath_setClockIn (b : Level) : (LineEvent.setLevel .clockIn b).OnInputPath :=
  fun _ h => .inl ⟨rfl, .inr (Option.some.inj h).symm⟩

theorem onInputPath_getLevel (b : Level) : (LineEvent.getLevel b).OnInputPath :=
  fun _ h => .inr ⟨rfl, (Option.some.inj h).symm⟩

theorem onInputPath_sleep (d : Nat) : (LineEvent.sleep d).OnInputPath := fun _ h => nomatch h

theorem onInputPath_of_mem_readSeqEvents {P : Byte} {e : LineEvent} (h : e ∈ readSeqEvents P) : e.OnInputPath := by
  rcases List.mem_append.mp h with h | h
  · simp only [List.mem_cons, List.not_mem_nil, or_false] at h
    rcases h with rfl | rfl
    · exact onInputPath_setLoadIn _
    · exact onInputPath_setLoadIn _
  · obtain ⟨k, -, h⟩ := List.mem_flatMap.mp h
    simp only [readBitEvents, List.mem_cons, List.not_mem_nil, or_false] at h
    rcases h with rfl | rfl | rfl
    · exact onInputPath_setClockIn _
    · exact onInputPath_getLevel _
    · exact onInputPath_setClockIn _

theorem onInputPath_of_mem_sampleEvents {d : Nat} {P Q : Byte} {e : LineEvent} (h : e ∈ sampleEvents d P Q) :
    e.OnInputPath := by
  rcases List.mem_append.mp h with h | h
  · rcases List.mem_append.mp h with h | h
    · exact onInputPath_of_mem_readSeqEvents h
    · obtain rfl := List.mem_singleton.mp h
      exact onInputPath_sleep d
  · exact onInputPath_of_mem_readSeqEvents h

/-- Settles O48: each command's events are the list its pseudocode performs. -/
theorem eventsStayOnTheirPath : Obligations.EventsStayOnTheirPath := by
  refine ⟨event_role_direction, fun v s h => ⟨_, exec_next _ _, fun e he => ?_⟩,
    fun i s hi h => ⟨_, exec_next _ _, fun e he => ?_⟩⟩
  · rw [(issue_send v h).1.newEvents_eq] at he
    exact role_of_mem_sendEvents he
  · rcases hi with rfl | rfl
    · rw [(issue_read h).1.newEvents_eq] at he
      exact onInputPath_of_mem_readSeqEvents he
    · rw [(issue_sample h).1.newEvents_eq] at he
      exact onInputPath_of_mem_sampleEvents he

/-! ## Owners -/

/-- Settles O49: the word's job leaves alone what its command does not own. -/
theorem onlyOwnersWrite : Obligations.OnlyOwnersWrite := by
  intro s t w ws hs hp hstep
  obtain ⟨job, rfl, hjob⟩ := step_issue hstep hs hp
  rcases job with (v | _ | _) | _
  case command.send =>
    have hw := hjob _ rfl
    obtain ⟨-, ho, hr, hi, hx⟩ := issue_send v (s := s.takeWord) hs
    have hd := issue_send_drv v (s := s.takeWord) hs
    exact ⟨fun h => absurd hx h, fun _ => ⟨v, hw, ho⟩, fun _ => ⟨v, hw, hr⟩, fun _ => ⟨v, hw⟩, by simp [hd, hi]⟩
  case command.read =>
    have hw := hjob _ rfl
    obtain ⟨ho, hr, hd⟩ := issue_input (.inl rfl) (s := s.takeWord) hs
    obtain ⟨-, -, -, hx⟩ := issue_read (s := s.takeWord) hs
    exact ⟨fun h => absurd hx h, fun h => absurd ho h, fun h => absurd hr h, by simp [hd], fun _ => .inl hw⟩
  case command.sample =>
    have hw := hjob _ rfl
    obtain ⟨ho, hr, hd⟩ := issue_input (.inr rfl) (s := s.takeWord) hs
    exact ⟨fun _ => hw, fun h => absurd ho h, fun h => absurd hr h, by simp [hd], fun _ => .inr hw⟩
  case invalid =>
    simp [issue_invalid (s := s.takeWord) hs]

/-! ## OUT_VALUE read -/

theorem readOutValue_of_some {s : State} {v : Byte} (h : s.outValue = some v) : s.readOutValue = .next v := by
  rw [State.readOutValue, h]

theorem readOutValue_congr {s t : State} (h : t.outValue = s.outValue) : t.readOutValue = s.readOutValue := by
  rw [State.readOutValue, State.readOutValue, h]

/-- Settles O53: the reading depends on OUT_VALUE alone, which only SEND writes. -/
theorem outValueReadable : Obligations.OutValueReadable := by
  refine ⟨fun p => rfl, fun v s h => ⟨_, exec_next _ _, ?_⟩, fun i s hi h => ⟨_, exec_next _ _, ?_⟩, fun s h => ?_⟩
  · obtain ⟨-, ho, -⟩ := issue_send v h
    exact readOutValue_of_some ho
  · obtain ⟨ho, -⟩ := issue_input hi h
    exact readOutValue_congr ho
  · rw [reject_idle h]
    exact readOutValue_congr (s.respond_outValue _)

/-! ## One SetLevel, and reset -/

/-- A role is a driven line's, `enable_out` or `data_in` (R26, R28). -/
theorem role_cases (r : Role) : (∃ l : DrivenLine, r = l.role) ∨ r = .enableOut ∨ r = .dataIn := by
  cases r with
  | clockOut => exact .inl ⟨.clockOut, rfl⟩
  | latchOut => exact .inl ⟨.latchOut, rfl⟩
  | dataOut => exact .inl ⟨.dataOut, rfl⟩
  | enableOut => exact .inr (.inl rfl)
  | loadIn => exact .inl ⟨.loadIn, rfl⟩
  | clockIn => exact .inl ⟨.clockIn, rfl⟩
  | dataIn => exact .inr (.inr rfl)

theorem setLevel_drv_get_same (s : State) (l : DrivenLine) (b : Level) : (s.setLevel l b).drv.get l = b := by simp

theorem setLevel_drv_get_other {l m : DrivenLine} (h : m ≠ l) (s : State) (b : Level) :
    (s.setLevel l b).drv.get m = s.drv.get m := by
  rw [State.setLevel_drv, Drv.get_set, if_neg h.symm]

theorem setLevel_lineLevel_other {l : DrivenLine} {r : Role} (hl : r ≠ l.role) (hd : r ≠ .dataIn) (s : State)
    (b : Level) : (s.setLevel l b).lineLevel r = s.lineLevel r := by
  obtain ⟨m, rfl⟩ | rfl | rfl := role_cases r
  · rw [lineLevel_role, lineLevel_role, setLevel_drv_get_other (fun h => hl (congrArg _ h))]
  · rfl
  · exact absurd rfl hd

/-- Settles O19: SetLevel writes one element of DRV, and every line but `data_in` shows DRV or `enable_out`. -/
theorem setLevelDrivesOneLine : Obligations.SetLevelDrivesOneLine :=
  ⟨fun s l b => ⟨setLevel_drv_get_same s l b, (lineLevel_role _ l).trans (setLevel_drv_get_same s l b),
      fun _ h => setLevel_drv_get_other h s b, fun _ hl hd => setLevel_lineLevel_other hl hd s b,
      s.setLevel_trace l b, s.setLevel_seq l b, s.setLevel_outValue l b, s.setLevel_sampled l b,
      s.setLevel_enableOut l b⟩,
    State.getLevel_drv, State.sleep_drv⟩

/-- The driven lines at reset are at `P_LINE_INIT` (R33). -/
theorem reset_drv_get (l : DrivenLine) : State.reset.drv.get l = Config.lineInit l := by cases l <;> rfl

/-- Settles O52: each element of the reset state is the parameter R33 names for it. -/
theorem resetValues : Obligations.ResetValues :=
  ⟨fun _ => ⟨rfl, rfl, rfl, rfl, rfl, rfl, rfl⟩, rfl, rfl, rfl, reset_drv_get, rfl, rfl, rfl⟩

end Sys2Proof.Machine
end

section
/-! PROOFS. One statement at a time: a tick leaves the end of what is running as it was, and `GetLevel` moves
nothing but the input lines and the trace. -/

namespace Sys2Proof.Machine

/-- A tick performs the first of the statements left, or is itself the end (R75, R211). -/
theorem finish_tick (s : State) : s.tick.finish = s.finish := by
  cases hseq : s.seq with
  | idle => rw [tick_idle hseq]
  | busy job pos w =>
    rw [← withSeq_self hseq]
    cases hop : (job.ops s.config)[pos]? with
    | some op =>
      obtain ⟨hlt, hget⟩ := List.getElem?_eq_some_iff.mp hop
      have hleft : (job.ops s.config).drop pos = op :: (job.ops s.config).drop (pos + 1) := by
        rw [List.drop_eq_getElem_cons hlt, hget]
      rw [tick_busy hop, finish_busy, finish_busy, Op.run_config, hleft, runOps]
    | none =>
      have hleft : (job.ops s.config).drop pos = [] := List.drop_eq_nil_of_le (List.getElem?_eq_none_iff.mp hop)
      rw [tick_end hop, finish_idle (complete_idle s job w), finish_busy, hleft, runOps]

/-- Settles O12: by induction on the ticks, each of which leaves the end as it was. -/
theorem runningCommandEndsTheSame : Obligations.RunningCommandEndsTheSame := by
  intro s n
  induction n generalizing s with
  | zero => rfl
  | succ n ih => rw [State.ticks, ih, finish_tick]

/-- Settles O20: one event is recorded and one gap of the environment passes. -/
theorem getLevelChangesNothing : Obligations.GetLevelChangesNothing := by
  intro s
  have hlines : s.getLevel.inLines = s.linesAt 1 := (getLevel_performed s).inLines
  have hgaps : s.getLevel.gaps = s.gaps.drop 1 := (getLevel_performed s).gaps
  rw [← hlines, ← hgaps]
  rfl

end Sys2Proof.Machine
end

section
/-! PROOFS. Words and their fields: the decoder by OP, what each of the 1024 words decodes to, decoder and encoder
as each other's inverse, and the fields of a response. -/

namespace Sys2Proof

/-! ## The two fields of a command word (R70) -/

@[simp] theorem op_append (o : BitVec 2) (d : Byte) : CommandWord.op (o ++ d) = o :=
  BitVec.extractLsb'_append_eq_left

@[simp] theorem data_append (o : BitVec 2) (d : Byte) : CommandWord.data (o ++ d) = d :=
  BitVec.extractLsb'_append_eq_right

/-- A command word is its two fields and nothing else. -/
theorem op_append_data (w : CommandWord) : CommandWord.op w ++ CommandWord.data w = w :=
  (BitVec.extractLsb'_append_extractLsb'_eq_extractLsb' (Nat.zero_add 8).symm).trans BitVec.extractLsb'_eq_self

theorem toNat_op_append (o : BitVec 2) (d : Byte) : (o ++ d).toNat = 256 * o.toNat + d.toNat := by
  rw [BitVec.toNat_append, ← Nat.shiftLeft_add_eq_or_of_lt d.isLt, Nat.shiftLeft_eq, Nat.mul_comm]

/-- The number of a word by its fields: OP counts in 256s, DATA in ones. -/
theorem toNat_eq_fields (w : CommandWord) :
    w.toNat = 256 * (CommandWord.op w).toNat + (CommandWord.data w).toNat := by
  rw [← toNat_op_append, op_append_data]

/-- The words of one OP follow one another. -/
theorem op_of_range {w : CommandWord} (o : BitVec 2) (lo : 256 * o.toNat ≤ w.toNat)
    (hi : w.toNat < 256 * o.toNat + 256) : CommandWord.op w = o := by
  have hw := toNat_eq_fields w
  exact BitVec.eq_of_toNat_eq (by omega)

/-- DATA is what the number of a word leaves above its OP. -/
theorem data_of_op {w : CommandWord} {o : BitVec 2} (h : CommandWord.op w = o) :
    CommandWord.data w = BitVec.ofNat 8 (w.toNat - 256 * o.toNat) := by
  rw [toNat_eq_fields w, h, Nat.add_sub_cancel_left, BitVec.ofNat_toNat, BitVec.setWidth_eq]

/-- Only the first word of an OP has DATA 0x00. -/
theorem data_ne_zero_of_op {w : CommandWord} {o : BitVec 2} (h : CommandWord.op w = o)
    (lo : 256 * o.toNat < w.toNat) : CommandWord.data w ≠ 0x00#8 := by
  intro hdata
  have hw := toNat_eq_fields w
  rw [h, hdata, BitVec.toNat_zero] at hw
  omega

theorem op_cases (w : CommandWord) : CommandWord.op w = 0b00#2 ∨ CommandWord.op w = 0b01#2 ∨
    CommandWord.op w = 0b10#2 ∨ CommandWord.op w = 0b11#2 :=
  (by decide : ∀ o : BitVec 2, o = 0b00#2 ∨ o = 0b01#2 ∨ o = 0b10#2 ∨ o = 0b11#2) _

/-! ## The decoder by OP (R71, R74) -/

theorem decode_of_op_reserved {w : CommandWord} (h : CommandWord.op w = 0b00#2) :
    decode w = .error .reservedOp := by
  simp [decode, h]

theorem decode_of_op_send {w : CommandWord} (h : CommandWord.op w = 0b01#2) :
    decode w = .ok (.send (CommandWord.data w)) := by
  simp [decode, h]

theorem decode_of_op_read {w : CommandWord} (h : CommandWord.op w = 0b10#2) :
    decode w = if CommandWord.data w = 0x00#8 then .ok .read else .error .readData := by
  simp [decode, h]

theorem decode_of_op_sample {w : CommandWord} (h : CommandWord.op w = 0b11#2) :
    decode w = if CommandWord.data w = 0x00#8 then .ok .sample else .error .sampleData := by
  simp [decode, h]

/-! ## Decoder and encoder -/

/-- Every command comes back from its word, SEND's operand with it (R72). -/
theorem decode_encode (i : Instr) : decode (encode i) = .ok i := by
  cases i with
  | send v => rw [encode, decode_of_op_send (op_append _ _), data_append]
  | read => rw [encode, decode_of_op_read (op_append _ _), data_append, if_pos rfl]
  | sample => rw [encode, decode_of_op_sample (op_append _ _), data_append, if_pos rfl]

/-- Only a command's own word decodes to it. -/
theorem encode_of_decode {w : CommandWord} {i : Instr} (h : decode w = .ok i) : w = encode i := by
  rw [← op_append_data w]
  obtain hop | hop | hop | hop := op_cases w
  · rw [decode_of_op_reserved hop] at h
    cases h
  · rw [decode_of_op_send hop] at h
    cases h
    rw [hop, encode]
  · rw [decode_of_op_read hop] at h
    split at h
    next hdata => cases h; rw [hop, hdata, encode]
    next => cases h
  · rw [decode_of_op_sample hop] at h
    split at h
    next hdata => cases h; rw [hop, hdata, encode]
    next => cases h

/-- Settles O4: a word is its OP and its DATA, and each OP decodes to its own command only. -/
theorem decodeEncodeAgree : Obligations.DecodeEncodeAgree :=
  fun i _ => ⟨encode_of_decode, fun h => h ▸ decode_encode i⟩

/-- SEND's word as R79 writes it. -/
theorem encode_send (v : Byte) : encode (.send v) = 0x100#10 ||| v.setWidth 10 := BitVec.append_def _ _

/-- Settles O1: the words as the encoder puts them together, and the worked example. -/
theorem encodingOfEveryCommand : Obligations.EncodingOfEveryCommand :=
  ⟨encode_send, rfl, rfl, rfl, rfl, decode_encode (.send 0xA5#8), .readData, decode_of_op_read rfl⟩

/-- Settles O3: the number of a word gives its OP, and above it its DATA. -/
theorem decoderCoversAllWords : Obligations.DecoderCoversAllWords := by
  intro w
  refine ⟨fun h => ?reserved, fun lo hi => ?send, fun h => ?read, fun lo hi => ?readData, fun h => ?sample,
    fun lo => ?sampleData⟩
  case reserved => exact decode_of_op_reserved (op_of_range 0b00#2 (Nat.zero_le _) h)
  case send =>
    have hop : CommandWord.op w = 0b01#2 := op_of_range 0b01#2 lo hi
    rw [decode_of_op_send hop, data_of_op hop]
    rfl
  case read => rw [BitVec.eq_of_toNat_eq (y := encode .read) h, decode_encode]
  case readData =>
    have hop : CommandWord.op w = 0b10#2 := op_of_range 0b10#2 lo.le hi
    rw [decode_of_op_read hop, if_neg (data_ne_zero_of_op hop lo)]
  case sample => rw [BitVec.eq_of_toNat_eq (y := encode .sample) h, decode_encode]
  case sampleData =>
    have hop : CommandWord.op w = 0b11#2 := op_of_range 0b11#2 lo.le w.isLt
    rw [decode_of_op_sample hop, if_neg (data_ne_zero_of_op hop lo)]

end Sys2Proof

namespace Sys2Proof.Machine

/-! ## The fields of a response (R76) -/

/-- The eleven bits of a response are KIND above ACC above VALUE, so each field reads back. -/
theorem respKindBits_respWord (k : RespKind) (acc : Bool) (x : Byte) : respKindBits (respWord k acc x) = k.bits := by
  have h := BitVec.append_assoc (x₁ := k.bits) (x₂ := BitVec.ofBool acc) (x₃ := x)
  rw [respKindBits, respWord, h]
  exact BitVec.extractLsb'_append_eq_left

theorem respAcc_respWord (k : RespKind) (acc : Bool) (x : Byte) : respAcc (respWord k acc x) = acc := by
  rw [respAcc, respWord, BitVec.getLsbD_append, BitVec.getLsbD_append]
  exact BitVec.getLsbD_ofBool acc 0

theorem respValue_respWord (k : RespKind) (acc : Bool) (x : Byte) : respValue (respWord k acc x) = x :=
  BitVec.extractLsb'_append_eq_right

/-- VALUE stands in the low byte of the response with its KIND, its ACC and VALUE 0x00. -/
theorem respWord_eq_or (k : RespKind) (acc : Bool) (x : Byte) :
    respWord k acc x = respWord k acc 0x00#8 ||| x.setWidth 11 := by
  have h0 : BitVec.setWidth' (by decide : 8 ≤ 3 + 8) 0x00#8 = 0#(3 + 8) := rfl
  rw [respWord, respWord, BitVec.append_def, BitVec.append_def _ 0x00#8, h0, BitVec.or_zero]
  rfl

/-- Settles O6: each field is read back where it was put. -/
theorem responseWordFormat : Obligations.ResponseWordFormat :=
  ⟨fun k acc x => ⟨respKindBits_respWord k acc x, respAcc_respWord k acc x, respValue_respWord k acc x⟩, rfl, rfl,
    respWord_eq_or .raw false, respWord_eq_or .sampled false, respWord_eq_or .sampled true⟩

end Sys2Proof.Machine
end

section
/-! PROOFS. Words and responses around a step: what is running ends with one response and the words held, and no
step changes how many words have been seen. -/

namespace Sys2Proof.Machine

/-! ## The step at BUSY and at IDLE (R75) -/

theorem step_busy {s : State} {job : Job} {pos : Nat} {w : Work} (hwf : s.config.wf = true)
    (h : s.seq = .busy job pos w) : step s = .next s.finish := by
  simp only [step, hwf, h, if_true]

theorem takeWord_eq {s : State} {w : CommandWord} {ws : List CommandWord} (h : s.pending = w :: ws) :
    s.takeWord = { s with pending := ws } := by
  rw [State.takeWord, h, List.tail_cons]

theorem step_command {s : State} {w : CommandWord} {ws : List CommandWord} {i : Instr} (hwf : s.config.wf = true)
    (hs : s.seq = .idle) (hp : s.pending = w :: ws) (hd : decode w = .ok i) : step s = exec i s.takeWord := by
  simp only [step, hwf, hs, hp, hd, if_true]

/-- Settles O7: at IDLE the step takes the oldest word and executes what it decodes to. -/
theorem stepRunsTheDecodedCommand : Obligations.StepRunsTheDecodedCommand :=
  fun _ _ _ _ hwf hs hp hd => takeWord_eq hp ▸ step_command hwf hs hp hd

/-! ## The end of what is running -/

/-- What is running ends with one response, and the words presented are held (R75, R76). -/
theorem finish_answers {s : State} {job : Job} {pos : Nat} {w : Work} (h : s.seq = .busy job pos w) :
    s.finish.pending = s.pending ∧ ∃ r, s.finish.responses = s.responses ++ [r] := by
  obtain ⟨r, x, hf⟩ := finish_run h
  have hu := runOps_untouched ((job.ops s.config).drop pos) s w
  rw [hf]
  exact ⟨hu.pending, r, congrArg (· ++ [r]) hu.responses⟩

/-- Settles O10: the step is the end of what is running. -/
theorem wordsAreHeldWhileBusy : Obligations.WordsAreHeldWhileBusy := by
  intro s job pos w hwf hs
  obtain ⟨hp, r, hr⟩ := finish_answers hs
  exact ⟨s.finish, r, step_busy hwf hs, finish_seq s, hp, hr⟩

/-- Settles O11: a command is issued at the end of what is running. -/
theorem commandHeldUntilIdle : Obligations.CommandHeldUntilIdle := by
  intro i s
  rw [exec_next, exec_next, ← issue_finish]
  exact ⟨rfl, finish_seq s⟩

/-! ## The count of words seen -/

theorem wordsSeen_idle {s : State} (h : s.seq = .idle) : s.wordsSeen = s.responses.length + s.pending.length := by
  simp only [State.wordsSeen, h, Nat.add_zero]

theorem wordsSeen_busy {s : State} {job : Job} {pos : Nat} {w : Work} (h : s.seq = .busy job pos w) :
    s.wordsSeen = s.responses.length + s.pending.length + 1 := by
  simp only [State.wordsSeen, h]

/-- The word being performed becomes the word answered. -/
theorem finish_wordsSeen (s : State) : s.finish.wordsSeen = s.wordsSeen := by
  cases h : s.seq with
  | idle => rw [finish_idle h]
  | busy job pos w =>
    obtain ⟨hp, r, hr⟩ := finish_answers h
    rw [wordsSeen_busy h, wordsSeen_idle (finish_seq s), hp, hr, List.length_append, List.length_singleton,
      Nat.add_right_comm]

/-- A word accepted at IDLE is one word more until it is taken from those waiting. -/
theorem accept_wordsSeen {s : State} (h : s.seq = .idle) (job : Job) : (s.accept job).wordsSeen = s.wordsSeen + 1 := by
  rw [wordsSeen_busy (s.accept_seq job), wordsSeen_idle h, State.accept_responses, State.accept_pending]

theorem issue_wordsSeen (s : State) (job : Job) : (s.issue job).wordsSeen = s.wordsSeen + 1 := by
  rw [State.issue, finish_wordsSeen, accept_wordsSeen (finish_seq s), finish_wordsSeen]

theorem takeWord_wordsSeen {s : State} {w : CommandWord} {ws : List CommandWord} (h : s.pending = w :: ws) :
    s.takeWord.wordsSeen + 1 = s.wordsSeen := by
  simp only [State.wordsSeen, State.takeWord_responses, State.takeWord_pending, State.takeWord_seq, h, List.tail_cons,
    List.length_cons]
  omega

/-- Settles O14: a word taken from those waiting is the one performed, and what is performed is answered. -/
theorem oneResponsePerWord : Obligations.OneResponsePerWord := by
  intro s t hstep
  obtain ⟨_, _, _, -, rfl⟩ | ⟨-, -, rfl⟩ | ⟨_, _, -, hp, ⟨_, -, rfl⟩ | ⟨_, -, rfl⟩⟩ := step_cases hstep
  · exact finish_wordsSeen s
  · rfl
  · rw [issue_wordsSeen, takeWord_wordsSeen hp]
  · rw [issue_wordsSeen, takeWord_wordsSeen hp]

end Sys2Proof.Machine
end

section
/-! PROOFS. The assembler: which number an operand writes, and what each line assembles to. -/

namespace Sys2Proof.Machine

/-! ## Digits (R77, log 25) -/

theorem decimal_iff_toNat (c : Char) : ('0' ≤ c ∧ c ≤ '9') ↔ 48 ≤ c.toNat ∧ c.toNat ≤ 57 := Iff.rfl

/-- The digits of base 10, by their code. -/
theorem digitValue_decimal {c : Char} (h : '0' ≤ c ∧ c ≤ '9') :
    digitValue c = some (c.toNat - 48) ∧ c.toNat - 48 < 10 := by
  obtain ⟨hlo, hhi⟩ := (decimal_iff_toNat c).mp h
  exact ⟨if_pos ⟨hlo, hhi⟩, by omega⟩

/-- The three ranges of digits, by their codes. -/
theorem digitValue_iff {c : Char} {d : Nat} : digitValue c = some d ↔
    (c.toNat = 48 + d ∧ d < 10) ∨ ((c.toNat = 55 + d ∨ c.toNat = 87 + d) ∧ 10 ≤ d ∧ d < 16) := by
  unfold digitValue
  split_ifs
  · rw [Option.some_inj]; omega
  · rw [Option.some_inj]; omega
  · rw [Option.some_inj]; omega
  · exact iff_of_false id (by omega)

theorem decimal_of_digitValue {c : Char} {d : Nat} (h : digitValue c = some d) (hd : d < 10) :
    '0' ≤ c ∧ c ≤ '9' := by
  have hc := digitValue_iff.mp h
  rw [decimal_iff_toNat]
  omega

theorem binary_of_digitValue {c : Char} {d : Nat} (h : digitValue c = some d) (hd : d < 2) :
    c = '0' ∨ c = '1' := by
  have hc := digitValue_iff.mp h
  have h0 : '0'.toNat = 48 := rfl
  have h1 : '1'.toNat = 49 := rfl
  rw [← Char.toNat_inj, ← Char.toNat_inj]
  omega

theorem toNat_capital (c : Char) :
    (capital c).toNat = if 97 ≤ c.toNat ∧ c.toNat ≤ 122 then c.toNat - 32 else c.toNat := by
  unfold capital
  split_ifs with h
  · rw [Char.toNat_ofNat, if_pos]
    exact .inl (by omega)
  · rfl

theorem toNat_hexDigit {d : Nat} (h : d < 16) : (hexDigit d).toNat = if d < 10 then 48 + d else 55 + d := by
  interval_cases d <;> rfl

/-- A digit has the value `d` exactly if its capital is the hexadecimal digit of `d`. -/
theorem digitValue_iff_capital {c : Char} {d : Nat} (hd : d < 16) :
    digitValue c = some d ↔ capital c = hexDigit d := by
  rw [digitValue_iff, ← Char.toNat_inj, toNat_capital, toNat_hexDigit hd]
  split_ifs <;> omega

/-! ## The number an operand writes -/

theorem immNumber_binary (ds : List Char) (h : ds.length = 8) : immNumber ('0' :: 'b' :: ds) = readDigits 2 ds 0 := by
  simp [immNumber, h]

/-- A word of decimal digits has neither the `x` nor the `b` of the other forms. -/
theorem immNumber_decimal {ds : List Char} (hne : ds ≠ []) (h : ∀ c ∈ ds, '0' ≤ c ∧ c ≤ '9') :
    immNumber ds = readDigits 10 ds 0 := by
  unfold immNumber
  split
  next => exact absurd rfl hne
  next => exact absurd (h 'x' (by simp)) (by decide)
  next => exact absurd (h 'b' (by simp)) (by decide)
  next => rfl

/-- The three forms of an operand, by the digits they are read as. -/
theorem immNumber_cases {o : List Char} {n : Nat} (h : immNumber o = some n) :
    (o ≠ [] ∧ readDigits 10 o 0 = some n) ∨
    (∃ ds, o = '0' :: 'b' :: ds ∧ ds.length = 8 ∧ readDigits 2 ds 0 = some n) ∨
    ∃ u l, o = ['0', 'x', u, l] ∧ readDigits 16 [u, l] 0 = some n := by
  unfold immNumber at h
  split at h
  next => cases h
  next u l => exact .inr (.inr ⟨u, l, rfl, h⟩)
  next ds =>
    split at h
    next hlen => exact .inr (.inl ⟨ds, rfl, hlen, h⟩)
    next => cases h
  next hne _ _ => exact .inl ⟨hne, h⟩

theorem immNumber_hex {a b : Nat} {u l : Char} (ha : a < 16) (hb : b < 16) (hu : capital u = hexDigit a)
    (hl : capital l = hexDigit b) : immNumber ['0', 'x', u, l] = some (16 * a + b) := by
  have hdu := (digitValue_iff_capital ha).mpr hu
  have hdl := (digitValue_iff_capital hb).mpr hl
  simp [immNumber, readDigits, hdu, hdl, ha, hb, Nat.mul_comm]

/-- Settles O56: each form reads its digits as one fold, and whatever is read is of one of the forms. -/
theorem assemblerReadsOperands : Obligations.AssemblerReadsOperands := by
  refine ⟨fun ds hne h => ?decimal, fun ds hlen h => ?binary, fun a b u l => immNumber_hex, fun o n h => ?conv⟩
  case decimal =>
    rw [immNumber_decimal hne h]
    exact readDigits_fold 10 _ ds 0 fun c hc => digitValue_decimal (h c hc)
  case binary =>
    rw [immNumber_binary ds hlen]
    refine readDigits_fold 2 _ ds 0 fun c hc => ?_
    rcases h c hc with rfl | rfl <;> decide
  case conv =>
    obtain ⟨hne, hr⟩ | ⟨ds, rfl, hlen, hr⟩ | ⟨u, l, rfl, hr⟩ := immNumber_cases h
    · refine .inl ⟨hne, fun c hc => ?_⟩
      obtain ⟨d, hd, hlt⟩ := readDigits_some hr c hc
      exact decimal_of_digitValue hd hlt
    · refine .inr (.inl ⟨ds, rfl, hlen, fun c hc => ?_⟩)
      obtain ⟨d, hd, hlt⟩ := readDigits_some hr c hc
      exact binary_of_digitValue hd hlt
    · obtain ⟨a, ha, hlta⟩ := readDigits_some hr u (by simp)
      obtain ⟨b, hb, hltb⟩ := readDigits_some hr l (by simp)
      exact .inr (.inr ⟨u, l, rfl, a, b, hlta, hltb, (digitValue_iff_capital hlta).mp ha,
        (digitValue_iff_capital hltb).mp hb⟩)

/-! ## The command of a line, by its words (R77) -/

section ByMnemonic
variable {m : List Char} {ops : List (List Char)}

theorem parseWords_send_nil (h : m.map capital = ['S', 'E', 'N', 'D']) :
    parseWords [m] = .error .missingOperand := by
  simp only [parseWords, if_pos h]

theorem parseWords_send (h : m.map capital = ['S', 'E', 'N', 'D']) (o : List Char) :
    parseWords [m, o] = (immByte o).map fun v => some (.send v) := by
  simp only [parseWords, if_pos h]
  cases immByte o <;> rfl

theorem parseWords_send_operands (h : m.map capital = ['S', 'E', 'N', 'D']) (hops : 2 ≤ ops.length) :
    parseWords (m :: ops) = .error .operandNotAllowed := by
  match ops, hops with
  | _ :: _ :: _, _ => simp only [parseWords, if_pos h]

theorem parseWords_read (h : m.map capital = ['R', 'E', 'A', 'D']) :
    parseWords (m :: ops) = if ops = [] then .ok (some .read) else .error .operandNotAllowed := by
  simp [parseWords, h]

theorem parseWords_sample (h : m.map capital = ['S', 'A', 'M', 'P', 'L', 'E']) :
    parseWords (m :: ops) = if ops = [] then .ok (some .sample) else .error .operandNotAllowed := by
  simp [parseWords, h]

theorem parseWords_unknown (hsend : m.map capital ≠ ['S', 'E', 'N', 'D'])
    (hread : m.map capital ≠ ['R', 'E', 'A', 'D']) (hsample : m.map capital ≠ ['S', 'A', 'M', 'P', 'L', 'E']) :
    parseWords (m :: ops) = .error .unknownMnemonic := by
  simp only [parseWords, if_neg hsend, if_neg hread, if_neg hsample]

end ByMnemonic

theorem immByte_of_lt {o : List Char} {n : Nat} (h : immNumber o = some n) (hn : n < 256) :
    immByte o = .ok (BitVec.ofNat 8 n) := by
  simp only [immByte, h, if_pos hn]

theorem immByte_of_ge {o : List Char} {n : Nat} (h : immNumber o = some n) (hn : 256 ≤ n) :
    immByte o = .error .badImmediate := by
  simp only [immByte, h, if_neg hn.not_gt]

theorem immByte_of_none {o : List Char} (h : immNumber o = none) : immByte o = .error .badImmediate := by
  simp only [immByte, h]

/-! ## Lines -/

/-- A line whose words are a mnemonic of SEND and one operand. -/
theorem assembleLine_send {line m o : List Char} (hw : splitWords (dropComment line) [] = [m, o])
    (h : m.map capital = ['S', 'E', 'N', 'D']) :
    assembleLine line = (immByte o).map fun v => some (encode (.send v)) := by
  rw [assembleLine_eq hw, parseWords_send h]
  cases immByte o <;> rfl

/-- Every word the assembler writes is a command's (R77). -/
theorem decode_of_assembleLine {line : List Char} {w : CommandWord} (h : assembleLine line = .ok (some w)) :
    ∃ i, decode w = .ok i := by
  rw [assembleLine_eq rfl] at h
  cases hp : parseWords (splitWords (dropComment line) []) with
  | error e => rw [hp] at h; cases h
  | ok parsed =>
    rw [hp] at h
    obtain ⟨i, -, rfl⟩ := Option.map_eq_some_iff.mp (Except.ok.inj h)
    exact ⟨i, decode_encode i⟩

/-- What follows a `;` does not reach the words of a line. -/
theorem assembleLine_comment (x y : List Char) (h : ';' ∉ x) : assembleLine (x ++ ';' :: y) = assembleLine x := by
  rw [assembleLine_eq rfl, assembleLine_eq rfl, dropComment_append x y h, dropComment_self x h]

/-- Words with a blank after each are parted again. -/
theorem splitWords_flatMap (ws : List (List Char)) (h : ∀ w ∈ ws, w ≠ [] ∧ ∀ c ∈ w, isBlank c = false) :
    splitWords (ws.flatMap (fun w => w ++ [' '])) [] = ws := by
  induction ws with
  | nil => rfl
  | cons w ws ih =>
    obtain ⟨hne, hw⟩ := h w List.mem_cons_self
    rw [List.flatMap_cons, List.append_assoc, List.singleton_append, splitWords_word _ _ _ hw (.inl hne),
      ih fun v hv => h v (List.mem_cons_of_mem _ hv)]
    rfl

/-- The last word of a line needs no blank behind it. -/
theorem splitWords_last (w cur : List Char) (h : ∀ c ∈ w, isBlank c = false) (hne : w ≠ [] ∨ cur ≠ []) :
    splitWords w cur = [cur.reverse ++ w] := by
  induction w generalizing cur with
  | nil =>
    have hc : cur ≠ [] := hne.resolve_left (· rfl)
    rw [splitWords, if_neg (by simpa using hc), List.append_nil]
  | cons c cs ih =>
    rw [splitWords, if_neg (by simp [h c List.mem_cons_self]),
      ih _ (fun d hd => h d (List.mem_cons_of_mem _ hd)) (.inr (List.cons_ne_nil _ _)),
      List.reverse_cons, List.append_assoc, List.singleton_append]

theorem splitWords_two {m o : List Char} (hm : m ≠ []) (hm' : ∀ c ∈ m, isBlank c = false) (ho : o ≠ [])
    (ho' : ∀ c ∈ o, isBlank c = false) : splitWords (m ++ ' ' :: o) [] = [m, o] := by
  rw [splitWords_word m o [] hm' (.inl hm), splitWords_last o [] ho' (.inl ho)]
  rfl

/-! ## A command as it is spelled -/

theorem capital_hexDigit : ∀ d < 16, capital (hexDigit d) = hexDigit d := by decide

/-- A hexadecimal digit neither parts words nor starts a comment. -/
theorem hexDigit_in_word : ∀ d < 16, isBlank (hexDigit d) = false ∧ hexDigit d ≠ ';' := by decide

/-- The words of SEND's spelling. -/
theorem splitWords_spell_send (v : Byte) : splitWords (dropComment (spell (.send v))) [] =
    [['S', 'E', 'N', 'D'], ['0', 'x', hexDigit (v.toNat / 16), hexDigit (v.toNat % 16)]] := by
  have hv := v.isLt
  obtain ⟨hhi, hhi'⟩ := hexDigit_in_word (v.toNat / 16) (by omega)
  obtain ⟨hlo, hlo'⟩ := hexDigit_in_word (v.toNat % 16) (by omega)
  have hplain : ';' ∉ spell (.send v) := by simp [spell, hhi'.symm, hlo'.symm]
  have hop : ∀ c ∈ ['0', 'x', hexDigit (v.toNat / 16), hexDigit (v.toNat % 16)], isBlank c = false := by
    simp only [List.forall_mem_cons]
    exact ⟨rfl, rfl, hhi, hlo, fun _ h => nomatch h⟩
  rw [dropComment_self _ hplain]
  exact splitWords_two (m := ['S', 'E', 'N', 'D']) (by decide) (by simp [isBlank]) (List.cons_ne_nil _ _) hop

theorem assembleLine_spell (i : Instr) : assembleLine (spell i) = .ok (some (encode i)) := by
  cases i with
  | send v =>
    have hv := v.isLt
    have hhi : v.toNat / 16 < 16 := by omega
    have hlo : v.toNat % 16 < 16 := by omega
    have hn := immNumber_hex hhi hlo (capital_hexDigit _ hhi) (capital_hexDigit _ hlo)
    rw [Nat.div_add_mod] at hn
    rw [assembleLine_send (splitWords_spell_send v) rfl, immByte_of_lt hn hv, BitVec.ofNat_toNat, BitVec.setWidth_eq]
    rfl
  | read => rfl
  | sample => rfl

/-- A number under 256 as the operand in SEND's word. -/
theorem encode_send_ofNat {n : Nat} (h : n < 256) :
    encode (.send (BitVec.ofNat 8 n)) = 0x100#10 ||| BitVec.ofNat 10 n := by
  rw [encode_send, BitVec.setWidth_ofNat_of_le_of_lt (by decide) h]

/-- Settles O5: a line assembles by its words, and each mnemonic has its own clause. -/
theorem assemblerWritesTheEncoding : Obligations.AssemblerWritesTheEncoding := by
  refine ⟨assembleLine_spell, fun _ _ => decode_of_assembleLine, fun _ => rfl, assembleLine_comment,
    splitWords_flatMap, fun line m ops hw => ⟨fun hs hr hp => ?unknown, fun hm => ?read,
      fun hm => ?sample, fun hm => ⟨?missing, ?byte, ?tooLarge, ?noNumber, fun hops => ?second⟩⟩,
    by decide, by decide, by decide, by decide, by decide, by decide, by decide⟩
  case unknown =>
    rw [assembleLine_eq hw, parseWords_unknown hs hr hp]
    rfl
  case read =>
    rw [assembleLine_eq hw, parseWords_read hm]
    split <;> rfl
  case sample =>
    rw [assembleLine_eq hw, parseWords_sample hm]
    split <;> rfl
  case missing =>
    rintro rfl
    rw [assembleLine_eq hw, parseWords_send_nil hm]
    rfl
  case byte =>
    rintro o n rfl hn hlt
    rw [assembleLine_send hw hm, immByte_of_lt hn hlt, ← encode_send_ofNat hlt]
    rfl
  case tooLarge =>
    rintro o n rfl hn hge
    rw [assembleLine_send hw hm, immByte_of_ge hn hge]
    rfl
  case noNumber =>
    rintro o rfl hn
    rw [assembleLine_send hw hm, immByte_of_none hn]
    rfl
  case second =>
    rw [assembleLine_eq hw, parseWords_send_operands hm hops]
    rfl

end Sys2Proof.Machine
end

section
/-! PROOFS. SEND: its events by number, its edges, and the instant at which the latches take the byte. -/

namespace Sys2Proof.Machine

/-! ## The events by number (R102) -/

/-- Each bit's three events stand together, bit 7 first (R102). -/
theorem sendEvents_drop_bit (v : Byte) {k : Nat} (hk : k < 8) :
    ∃ rest, (sendEvents v).drop (3 * k) = sendBitEvents v (7 - k) ++ rest := by
  interval_cases k <;> exact ⟨_, rfl⟩

/-- Event `3 k + j` of SEND is event `j` of bit `7 - k` (R102). -/
theorem sendEvents_getElem?_bit (v : Byte) {k j : Nat} (hk : k < 8) (hj : j < 3) :
    (sendEvents v)[3 * k + j]? = (sendBitEvents v (7 - k))[j]? := by
  obtain ⟨rest, hrest⟩ := sendEvents_drop_bit v hk
  rw [← List.getElem?_drop, hrest, List.getElem?_append_left hj]

/-- SEND's events name driven lines only, so each is a SetLevel (R100, R102). -/
theorem isSetLevel_of_mem_sendEvents {v : Byte} {e : LineEvent} (h : e ∈ sendEvents v) : e.isSetLevel = true := by
  obtain ⟨r, hrole, hr⟩ := role_of_mem_sendEvents h
  rcases event_role_direction e r hrole with ⟨hset, -⟩ | ⟨-, hdir⟩
  · exact hset
  · rcases hr with rfl | rfl | rfl <;> cases hdir

/-- Settles O26: the three events of each bit stand together, and the latch pulse follows the eight bits. -/
theorem sendTraceByNumber : Obligations.SendTraceByNumber := by
  intro v s h
  refine ⟨_, exec_next _ _, ?_⟩
  rw [(issue_send v h).1.newEvents_eq]
  refine ⟨sendEvents_length v, fun i hi => ?_, rfl, rfl, fun _ => isSetLevel_of_mem_sendEvents⟩
  have hbit : ∀ j < 3, (sendEvents v)[3 * (7 - i) + j]? = (sendBitEvents v i)[j]? := fun j hj => by
    rw [sendEvents_getElem?_bit v (by omega) hj, Nat.sub_sub_self hi]
  exact ⟨hbit 0 (by decide), hbit 1 (by decide), hbit 2 (by decide)⟩

/-! ## The state SEND leaves (R101) -/

/-- Settles O25: the run of SEND's statements, then the response. -/
theorem sendWritesItsState : Obligations.SendWritesItsState := by
  intro v s h
  obtain ⟨u, hp, ho, hr, -, he⟩ := execSend_run v h
  exact ⟨u.respond respDone, he, rfl, ho, congrArg (· ++ [respDone]) hp.responses,
    hp.drv.trans (drvAfter_sendEvents _ _), hp.sampled, hr, hp.trace, encode_send v⟩

/-- The last response is the one just given. -/
@[simp] theorem respond_lastResponse (s : State) (r : ResponseWord) : (s.respond r).lastResponse = r := by
  simp [State.lastResponse]

/-- Settles O32: the events, the register, OUT_VALUE and the response of SEND are functions of `v` alone. -/
theorem inputsNeverReachSend : Obligations.InputsNeverReachSend := by
  intro v s s' h h'
  obtain ⟨u, hp, ho, hr, -, he⟩ := execSend_run v h
  obtain ⟨u', hp', ho', hr', -, he'⟩ := execSend_run v h'
  refine ⟨_, _, he, he', ?events, hr.trans hr'.symm, ho.trans ho'.symm, ?response⟩
  case events => exact hp.newEvents.trans hp'.newEvents.symm
  case response => rw [respond_lastResponse, respond_lastResponse]

/-! ## Edges of a list of events (R51) -/

@[simp] theorem risingAt_nil (l : DrivenLine) (d : Drv) (n : Nat) : risingAt l d [] n = false := rfl
@[simp] theorem fallingAt_nil (l : DrivenLine) (d : Drv) (n : Nat) : fallingAt l d [] n = false := rfl

section
variable (l l' : DrivenLine) (b : Level) (d : Drv) (es : List LineEvent) (n : Nat)

@[simp] theorem risingAt_setLevel_zero :
    risingAt l d (.setLevel l' b :: es) 0 = (l' == l && rising (d.get l) b) := rfl
@[simp] theorem fallingAt_setLevel_zero :
    fallingAt l d (.setLevel l' b :: es) 0 = (l' == l && falling (d.get l) b) := rfl
@[simp] theorem risingAt_setLevel_succ :
    risingAt l d (.setLevel l' b :: es) (n + 1) = risingAt l (d.set l' b) es n := rfl
@[simp] theorem fallingAt_setLevel_succ :
    fallingAt l d (.setLevel l' b :: es) (n + 1) = fallingAt l (d.set l' b) es n := rfl

end

/-! ## The edges of SEND (R103-R105) -/

/-- The events of SEND for the bits still to be sent: the loop over them, then the latch pulse (R101). -/
def sendRest (v : Byte) (is : List Nat) : List LineEvent :=
  is.flatMap (sendBitEvents v) ++ [.setLevel .latchOut false, .setLevel .latchOut true]

theorem sendRest_nil (v : Byte) : sendRest v [] = [.setLevel .latchOut false, .setLevel .latchOut true] := rfl

theorem sendRest_cons (v : Byte) (i : Nat) (is : List Nat) :
    sendRest v (i :: is) = .setLevel .clockOut false :: .setLevel .dataOut (bitOf v i) ::
      .setLevel .clockOut true :: sendRest v is := rfl

theorem sendEvents_eq_sendRest (v : Byte) : sendEvents v = sendRest v [7, 6, 5, 4, 3, 2, 1, 0] := rfl

/-- The edges made while any number of bits is left: `clock_out` falls at a bit's first event (at the very first only
if it was high before) and rises at its third; `latch_out` falls after the bits, if it was high before, and then rises. -/
theorem edges_sendRest (v : Byte) (is : List Nat) (d : Drv) (n : Nat) :
    (risingAt .clockOut d (sendRest v is) n = true ↔ n < 3 * is.length ∧ n % 3 = 2) ∧
      (risingAt .latchOut d (sendRest v is) n = true ↔ n = 3 * is.length + 1) ∧
      (fallingAt .clockOut d (sendRest v is) n = true ↔
        n < 3 * is.length ∧ n % 3 = 0 ∧ (n = 0 → d.clockOut = true)) ∧
      (fallingAt .latchOut d (sendRest v is) n = true ↔ n = 3 * is.length ∧ d.latchOut = true) := by
  induction is generalizing d n with
  | nil => rcases n with _ | _ | n <;> simp [sendRest_nil, Drv.get, Drv.set]
  | cons i is ih =>
    rw [sendRest_cons, List.length_cons]
    rcases n with _ | _ | _ | n
    case zero => simp [Drv.get]
    case succ.zero =>
      have hbits : 1 ≠ 3 * (is.length + 1) := by omega
      simp [hbits]
    case succ.succ.zero =>
      have hlow : 2 < 3 * (is.length + 1) := by omega
      simp [hlow, hlow.ne]
    case succ.succ.succ =>
      obtain ⟨hclockUp, hlatchUp, hclockDown, hlatchDown⟩ := ih { d with clockOut := true, dataOut := bitOf v i } n
      refine ⟨hclockUp.trans (by omega), hlatchUp.trans (by omega), hclockDown.trans ?_,
        hlatchDown.trans (and_congr_left' (by omega))⟩
      simp only [implies_true, and_true, Nat.succ_ne_zero, false_implies]
      omega

/-- The edges of SEND (R104). -/
theorem edges_sendEvents (v : Byte) (d : Drv) (n : Nat) :
    (risingAt .clockOut d (sendEvents v) n = true ↔ n < 24 ∧ n % 3 = 2) ∧
      (risingAt .latchOut d (sendEvents v) n = true ↔ n = 25) ∧
      (fallingAt .clockOut d (sendEvents v) n = true ↔ n < 24 ∧ n % 3 = 0 ∧ (n = 0 → d.clockOut = true)) ∧
      (fallingAt .latchOut d (sendEvents v) n = true ↔ n = 24 ∧ d.latchOut = true) :=
  edges_sendRest v [7, 6, 5, 4, 3, 2, 1, 0] d n

/-- Settles O28: the edges the loop and the latch pulse make, for the eight bits. -/
theorem sendEdges : Obligations.SendEdges := by
  intro v s h
  obtain ⟨ha, -, hr, -⟩ := issue_send v h
  refine ⟨_, exec_next _ _, hr, ?_⟩
  rw [ha.newEvents_eq]
  refine ⟨fun k hk => sendEvents_getElem?_bit v hk (j := 0) (by decide), fun n => ?_⟩
  obtain ⟨hclockUp, hlatchUp, hclockDown, hlatchDown⟩ := edges_sendEvents v s.drv n
  refine ⟨hclockUp.trans ?_, hlatchUp, hclockDown.trans ?_, hlatchDown⟩
  · simp only [List.mem_cons, List.not_mem_nil, or_false]
    omega
  · rcases n.eq_zero_or_pos with rfl | hn
    · simp
    · simp only [hn.ne', false_implies, and_true, false_and, false_or, List.mem_cons, List.not_mem_nil, or_false]
      omega

/-- A SetLevel on `data_out` stands between the two SetLevels on `clock_out` of its bit. -/
theorem sendRest_split_dataOut {v : Byte} {is : List Nat} {pre post : List LineEvent} {b : Level}
    (h : sendRest v is = pre ++ .setLevel .dataOut b :: post) :
    (∃ pre', pre = pre' ++ [.setLevel .clockOut false]) ∧ ∃ post', post = .setLevel .clockOut true :: post' := by
  induction is generalizing pre with
  | nil => rcases pre with _ | ⟨_, _ | ⟨_, pre⟩⟩ <;> simp [sendRest_nil] at h
  | cons i is ih =>
    rw [sendRest_cons] at h
    rcases pre with _ | ⟨x, _ | ⟨y, _ | ⟨z, pre⟩⟩⟩ <;>
      simp only [List.nil_append, List.cons_append, List.cons.injEq, reduceCtorEq, LineEvent.setLevel.injEq,
        false_and, and_false] at h
    case cons.nil =>
      obtain ⟨rfl, -, rfl⟩ := h
      exact ⟨⟨[], rfl⟩, _, rfl⟩
    case cons.cons.cons =>
      obtain ⟨-, -, -, h⟩ := h
      obtain ⟨⟨pre', rfl⟩, hpost⟩ := ih h
      exact ⟨⟨x :: y :: z :: pre', rfl⟩, hpost⟩

/-- Settles O27: the event before a SetLevel on `data_out` lowers `clock_out` and the one after it raises it. -/
theorem sendDataSetWhileClockLow : Obligations.SendDataSetWhileClockLow := by
  intro v s h
  refine ⟨_, exec_next _ _, fun pre post b hsplit => ?_⟩
  rw [(issue_send v h).1.newEvents_eq, sendEvents_eq_sendRest] at hsplit
  obtain ⟨⟨pre', rfl⟩, post', rfl⟩ := sendRest_split_dataOut hsplit
  rw [drvAfter_append]
  exact ⟨rfl, List.mem_append_right _ (List.mem_singleton_self _), List.mem_cons_self⟩

/-- Settles O29: the event before the rising edge of bit `7 - k` puts that bit on `data_out`. -/
theorem sendShiftsMostSignificantFirst : Obligations.SendShiftsMostSignificantFirst := by
  intro v s h
  refine ⟨_, exec_next _ _, fun k hk => ?_⟩
  rw [(issue_send v h).1.newEvents_eq]
  constructor
  · obtain ⟨hclockUp, -⟩ := edges_sendEvents v s.drv (3 * k + 2)
    exact hclockUp.mpr ⟨by omega, by omega⟩
  · rw [List.take_add_one, sendEvents_getElem?_bit v hk (j := 1) (by decide), drvAfter_append]
    rfl

/-! ## The latches at every instant of SEND (R106) -/

/-- A running command with no more ticks left than `n` has ended after `n` ticks. -/
theorem ticks_of_remaining_le {s : State} {n : Nat} (h : s.remaining ≤ n) : State.ticks n s = s.finish := by
  rw [← Nat.add_sub_cancel' h, ticks_add]
  exact ticks_idle (finish_seq s) _

/-- The first ticks after acceptance perform the first statements, one each. -/
theorem ticks_accept {s : State} {job : Job} {ops rest : List Op} (h : job.ops s.config = ops ++ rest) :
    ∃ q, State.ticks ops.length (s.accept job) = (runOps ops s (Work.fresh s.trace.length)).1.withSeq q :=
  ⟨_, ticks_busy ops rest h⟩

/-- Past its last statement and its end, an accepted job stands at its response. -/
theorem ticks_accept_end {s : State} (hs : s.seq = .idle) {job : Job} {n : Nat}
    (h : (job.ops s.config).length < n) : State.ticks n (s.accept job) = s.issue job := by
  rw [State.issue, finish_idle hs]
  exact ticks_of_remaining_le h

/-- Only a SetLevel of `latch_out` to 1 reaches the latches (R183). -/
theorem Op.run_latches {op : Op} (h : op ≠ .set .latchOut true) (s : State) (w : Work) :
    (op.run s w).1.outReg.latches = s.outReg.latches := by
  cases op with
  | set l b =>
    cases b with
    | false => rfl
    | true =>
      have hl : l ≠ .latchOut := fun hl => h (hl ▸ rfl)
      have hkeep : (s.outReg.onRising l s.drv.dataOut).latches = s.outReg.latches := by
        cases l with
        | latchOut => exact absurd rfl hl
        | clockOut | dataOut | loadIn | clockIn => rfl
      rw [Op.run, State.setLevel_outReg]
      split
      · exact hkeep
      · rfl
  | storeOut | sampleLine | sleep | clearAcc | shiftAcc | orAcc | keepA | keepB => rfl

theorem runOps_latches {ops : List Op} (h : .set .latchOut true ∉ ops) (s : State) (w : Work) :
    (runOps ops s w).1.outReg.latches = s.outReg.latches := by
  induction ops generalizing s w with
  | nil => rfl
  | cons op ops ih =>
    obtain ⟨hop, hops⟩ := not_or.mp (mt List.mem_cons.mpr h)
    exact (ih hops _ _).trans (Op.run_latches (Ne.symm hop) s w)

/-- SEND's statements before the last. -/
def sendInit (v : Byte) : List Op :=
  Op.storeOut v :: ([7, 6, 5, 4, 3, 2, 1, 0].flatMap (sendBitOps v) ++ [Op.set .latchOut false])

theorem sendOps_eq_sendInit (v : Byte) : sendOps v = sendInit v ++ [.set .latchOut true] := by
  simp [sendOps, sendInit]

theorem sendInit_length (v : Byte) : (sendInit v).length = 26 := rfl

theorem latch_not_mem_sendInit (v : Byte) : .set .latchOut true ∉ sendInit v := by
  simp [sendInit, sendBitOps]

/-- SEND's last statement is its last event, so 25 events come before it. -/
theorem opsEvents_sendInit_length (v : Byte) (s : State) (w : Work) : (opsEvents (sendInit v) s w).length = 25 := by
  have hall : (opsEvents (sendOps v) s w).length = 26 := by
    rw [sendOps, opsEvents_storeOut, (sendTail_run v _ w).events, sendEvents_length]
  rw [sendOps_eq_sendInit, opsEvents_append, List.length_append] at hall
  exact Nat.succ.inj hall

/-- Before its last statement SEND has performed at most 25 events, and the latches are as they were. -/
theorem ticks_send_before_last (v : Byte) (s : State) {n : Nat} (hn : n ≤ 26) :
    (State.ticks n (s.accept (.command (.send v)))).trace.length ≤ s.trace.length + 25 ∧
      (State.ticks n (s.accept (.command (.send v)))).outReg.latches = s.outReg.latches := by
  have hops : sendOps v = (sendInit v).take n ++ ((sendInit v).drop n ++ [.set .latchOut true]) := by
    rw [sendOps_eq_sendInit, ← List.append_assoc, List.take_append_drop]
  obtain ⟨q, hq⟩ := ticks_accept (s := s) (job := .command (.send v)) hops
  rw [List.length_take_of_le (sendInit_length v ▸ hn)] at hq
  rw [hq, State.withSeq_trace, State.withSeq_outReg, (runOps_performed _ _ _).trace, List.length_append]
  refine ⟨Nat.add_le_add_left ?count _, runOps_latches (fun h => latch_not_mem_sendInit v (List.mem_of_mem_take h)) _ _⟩
  have hinit := opsEvents_sendInit_length v s (Work.fresh s.trace.length)
  rw [← List.take_append_drop n (sendInit v), opsEvents_append, List.length_append] at hinit
  omega

/-- From SEND's last statement on its 26 events are performed and the latches hold its byte. -/
theorem ticks_send_from_last (v : Byte) {s : State} (hs : s.seq = .idle) {n : Nat} (hn : 27 ≤ n) :
    (State.ticks n (s.accept (.command (.send v)))).trace.length = s.trace.length + 26 ∧
      (State.ticks n (s.accept (.command (.send v)))).outReg.latches = v := by
  rcases hn.eq_or_lt with rfl | hlt
  · obtain ⟨hp, -, hr, -⟩ := sendOps_run v s (Work.fresh s.trace.length)
    obtain ⟨q, hq⟩ := ticks_accept (s := s) (job := .command (.send v)) (List.append_nil (sendOps v)).symm
    rw [show (sendOps v).length = 27 from rfl] at hq
    rw [hq, State.withSeq_trace, State.withSeq_outReg, hp.trace, hr, List.length_append, sendEvents_length]
    exact ⟨rfl, rfl⟩
  · obtain ⟨ha, -, hr, -⟩ := issue_send v hs
    rw [ticks_accept_end hs hlt, ha.trace, hr, List.length_append, sendEvents_length]
    exact ⟨rfl, rfl⟩

/-- The outputs show the latches while they are enabled (R184). -/
theorem outputs_of_enabled {s : State} (h : s.enableOut = false) : s.outputs = s.outReg.latches := if_pos h

/-- Settles O30: the instants before SEND's last statement are those with fewer than 26 events performed. -/
theorem sendCommitsAtomically : Obligations.SendCommitsAtomically := by
  intro v s h
  obtain ⟨-, -, hr, -⟩ := issue_send v h
  refine ⟨⟨_, exec_next _ _, congrArg OutReg.cells hr, congrArg OutReg.latches hr, fun he => ?_⟩, fun n => ?_⟩
  · rw [outputs_of_enabled he, hr]
  · rcases Nat.lt_or_ge n 27 with hn | hn
    · obtain ⟨hcount, hlatches⟩ := ticks_send_before_last v s (Nat.le_of_lt_succ hn)
      exact ⟨fun _ => hlatches, fun hdone => by omega⟩
    · obtain ⟨hcount, hlatches⟩ := ticks_send_from_last v h hn
      exact ⟨fun hleft => by omega, fun _ => hlatches⟩

end Sys2Proof.Machine
end

section
/-! PROOFS. READ: its byte from the levels sampled, its events by number, its edges, and the snapshot its answer is. -/

namespace Sys2Proof.Machine

/-! ## The samples and the byte they make (R122) -/

/-- Bit `m` of the byte is the inverse of the sample `m` places before the last, and clear where there is none. -/
theorem getLsbD_byteOfSamples (l : List Level) {m : Nat} (hm : m < 8) :
    (byteOfSamples l).getLsbD m = l.reverse[m]?.any (!·) := by
  simp only [byteOfSamples, BitVec.getLsbD_ofNat, hm, decide_true, Bool.true_and]
  clear hm
  induction l using List.reverseRecOn generalizing m with
  | nil => simp
  | append_singleton l b ih =>
    rw [List.foldl_concat, List.reverse_concat]
    cases m with
    | zero => cases b <;> simp [Nat.add_mod]
    | succ m =>
      rw [Nat.testBit_succ, List.getElem?_cons_succ, ← ih]
      congr 1
      split <;> omega

/-- Sample `k` of a read is bit `7 - k` of its snapshot (R188). -/
theorem samplesOf_readSeqEvents_getElem? (P : Byte) {k : Nat} (hk : k < 8) :
    (samplesOf (readSeqEvents P))[k]? = some (P.getLsbD (7 - k)) := by
  rw [samplesOf_readSeqEvents]
  interval_cases k <;> rfl

/-- The samples of a read make the complement of its snapshot (R122, R127). -/
theorem byteOfSamples_readSeqEvents (P : Byte) : byteOfSamples (samplesOf (readSeqEvents P)) = ~~~P := by
  refine BitVec.eq_of_getLsbD_eq fun m hm => ?_
  rw [getLsbD_byteOfSamples _ hm, samplesOf_readSeqEvents]
  interval_cases m <;> simp [bitOf]

/-! ## `acc` after each iteration (R122) -/

/-- READ_SEQ's statements up to the end of its first `n` iterations. -/
def readSeqInit (n : Nat) : List Op :=
  [.set .loadIn false, .set .loadIn true, .clearAcc] ++ (List.replicate n readBitOps).flatten

theorem readSeqInit_length (n : Nat) : (readSeqInit n).length = 3 + 5 * n := by
  simp [readSeqInit, readBitOps]
  omega

theorem readSeqOps_eq_readSeqInit {n : Nat} (hn : n ≤ 8) :
    readSeqOps = readSeqInit n ++ (List.replicate (8 - n) readBitOps).flatten := by
  rw [readSeqInit, List.append_assoc, ← List.flatten_append, List.replicate_append_replicate, Nat.add_sub_cancel' hn]
  rfl

/-- After `n` iterations READ_SEQ stands at `n` on the snapshot of its strobe. -/
theorem readSeqInit_at {n : Nat} (hn : n ≤ 8) (s : State) (w : Work) :
    ReadAt (s.snapshotAt 0) n (runOps (readSeqInit n) s w).1 (runOps (readSeqInit n) s w).2 := by
  obtain ⟨-, hstrobe⟩ := strobe_run s w
  obtain ⟨-, hloop⟩ := readLoop_at _ n 0 _ _ (by omega) hstrobe
  rwa [← runOps_append, Nat.zero_add] at hloop

/-- READ between two iterations: at the statement after its first `n` iterations, with `acc` as they left it. -/
theorem ticks_read {n : Nat} (hn : n ≤ 8) (s : State) :
    ∃ w, (State.ticks (3 + 5 * n) (s.accept (.command .read))).seq = .busy (.command .read) (3 + 5 * n) w ∧
      ∀ m, m < 8 → w.acc.getLsbD m = (decide (m < n) && !(s.snapshotAt 0).getLsbD (8 - n + m)) := by
  have hticks := ticks_busy (readSeqInit n) _ (s := s) (job := .command .read) (pos := 0)
    (w := Work.fresh s.trace.length) (readSeqOps_eq_readSeqInit hn)
  rw [readSeqInit_length, Nat.zero_add] at hticks
  exact ⟨_, congrArg State.seq hticks, (readSeqInit_at hn s _).acc⟩

/-- READ at IDLE answers the complement of its snapshot (R127). -/
theorem issue_read_responses {s : State} (h : s.seq = .idle) :
    (s.issue (.command .read)).responses = s.responses ++ [respRaw (~~~ s.snapshotAt 0)] := by
  obtain ⟨u, hp, -, -, he⟩ := execRead_run h
  rw [Host.Outcome.next.inj ((exec_next .read s).symm.trans he), State.respond_responses, hp.responses]

/-- Settles O33: the samples are the snapshot's bits, the answer is their inverse, and so is `acc` on the way. -/
theorem readResultFromSamples : Obligations.ReadResultFromSamples := by
  intro s h
  refine ⟨_, ~~~ s.snapshotAt 0, exec_next _ _, issue_seq _ _, issue_read_responses h, ?_⟩
  rw [(issue_read h).1.newEvents_eq]
  refine ⟨by simp [samplesOf_readSeqEvents], (byteOfSamples_readSeqEvents _).symm, fun k hk => ?_, fun k hk => ?_⟩
  · have hbit : 7 - k < 8 := by omega
    simp [samplesOf_readSeqEvents_getElem? _ hk, hbit]
  · obtain ⟨w, hseq, hacc⟩ := ticks_read (Nat.succ_le_of_lt hk) s
    refine ⟨w, hseq, fun j hj => ?_, fun m hm => ?_⟩
    · have hbit : 7 - k + (k - j) = 7 - j := by omega
      have hsampled : k - j < k + 1 := by omega
      simp [samplesOf_readSeqEvents_getElem? _ (Nat.lt_of_le_of_lt hj hk), hacc (k - j) (by omega), hbit, hsampled]
    · have hunsampled : ¬ m < k + 1 := by omega
      rcases Nat.lt_or_ge m 8 with hm8 | hm8
      · simp [hacc m hm8, hunsampled]
      · exact BitVec.getLsbD_of_ge _ _ hm8

/-! ## The events by number (R123) -/

/-- The three events of each iteration stand together after the strobe (R123). -/
theorem readSeqEvents_drop_bit (P : Byte) {k : Nat} (hk : k < 8) :
    ∃ rest, (readSeqEvents P).drop (2 + 3 * k) = readBitEvents P k ++ rest := by
  interval_cases k <;> exact ⟨_, rfl⟩

/-- Event `2 + 3 k + j` of READ_SEQ is event `j` of iteration `k` (R123). -/
theorem readSeqEvents_getElem?_bit (P : Byte) {k j : Nat} (hk : k < 8) (hj : j < 3) :
    (readSeqEvents P)[2 + 3 * k + j]? = (readBitEvents P k)[j]? := by
  obtain ⟨rest, hrest⟩ := readSeqEvents_drop_bit P hk
  rw [← List.getElem?_drop, hrest, List.getElem?_append_left hj]

theorem isSleep_of_mem_readSeqEvents {P : Byte} {e : LineEvent} (h : e ∈ readSeqEvents P) : e.isSleep = false := by
  rcases List.mem_append.mp h with h | h
  · simp only [List.mem_cons, List.not_mem_nil, or_false] at h
    rcases h with rfl | rfl <;> rfl
  · obtain ⟨k, -, h⟩ := List.mem_flatMap.mp h
    simp only [readBitEvents, List.mem_cons, List.not_mem_nil, or_false] at h
    rcases h with rfl | rfl | rfl <;> rfl

/-- Settles O34: the strobe's two events come first, then the three events of each iteration. -/
theorem readTraceByNumber : Obligations.ReadTraceByNumber := by
  intro s h
  refine ⟨_, exec_next _ _, ?_⟩
  rw [(issue_read h).1.newEvents_eq]
  refine ⟨readSeqEvents_length _, rfl, rfl, fun k hk => ?_, fun _ => isSleep_of_mem_readSeqEvents⟩
  have hk8 := Nat.lt_succ_of_le hk
  have hbit : ∀ j < 3, (readSeqEvents (s.snapshotAt 0))[2 + j + 3 * k]? = (readBitEvents (s.snapshotAt 0) k)[j]? :=
    fun j hj => by rw [Nat.add_right_comm, readSeqEvents_getElem?_bit _ hk8 hj]
  exact ⟨hbit 0 (by decide), ⟨_, hbit 1 (by decide), samplesOf_readSeqEvents_getElem? _ hk8⟩, hbit 2 (by decide)⟩

/-! ## The edges (R126) -/

section
variable (l : DrivenLine) (b : Level) (d : Drv) (es : List LineEvent) (n : Nat)

@[simp] theorem risingAt_getLevel_zero : risingAt l d (.getLevel b :: es) 0 = false := rfl
@[simp] theorem fallingAt_getLevel_zero : fallingAt l d (.getLevel b :: es) 0 = false := rfl
@[simp] theorem risingAt_getLevel_succ : risingAt l d (.getLevel b :: es) (n + 1) = risingAt l d es n := rfl
@[simp] theorem fallingAt_getLevel_succ : fallingAt l d (.getLevel b :: es) (n + 1) = fallingAt l d es n := rfl

end

/-- The edges of any iterations of READ_SEQ: `clock_in` falls at an iteration's first event (at the very first only if
it was high before) and rises at its third; `load_in` has none and keeps its level. -/
theorem edges_readBits (P : Byte) (ks : List Nat) (d : Drv) (n : Nat) :
    risingAt .loadIn d (ks.flatMap (readBitEvents P)) n = false ∧
      fallingAt .loadIn d (ks.flatMap (readBitEvents P)) n = false ∧
      (risingAt .clockIn d (ks.flatMap (readBitEvents P)) n = true ↔ n < 3 * ks.length ∧ n % 3 = 2) ∧
      (fallingAt .clockIn d (ks.flatMap (readBitEvents P)) n = true ↔
        n < 3 * ks.length ∧ n % 3 = 0 ∧ (n = 0 → d.clockIn = true)) ∧
      (drvAfter d ((ks.flatMap (readBitEvents P)).take n)).loadIn = d.loadIn := by
  induction ks generalizing d n with
  | nil => simp [drvAfter]
  | cons k ks ih =>
    have hcons : (k :: ks).flatMap (readBitEvents P) = .setLevel .clockIn false :: .getLevel (bitOf P (7 - k)) ::
      .setLevel .clockIn true :: ks.flatMap (readBitEvents P) := rfl
    rw [hcons, List.length_cons]
    rcases n with _ | _ | _ | n
    case zero => simp [Drv.get, drvAfter]
    case succ.zero => simp [drvAfter, Drv.set]
    case succ.succ.zero =>
      have hlow : 2 < 3 * (ks.length + 1) := by omega
      simp [hlow, drvAfter, Drv.set, Drv.get]
    case succ.succ.succ =>
      obtain ⟨hloadUp, hloadDown, hclockUp, hclockDown, hload⟩ := ih { d with clockIn := true } n
      refine ⟨hloadUp, hloadDown, hclockUp.trans (by omega), hclockDown.trans ?_, hload⟩
      simp only [implies_true, and_true, Nat.succ_ne_zero, false_implies]
      omega

/-- The edges of READ_SEQ (R126): the strobe's, then those of its eight iterations with `load_in` at 1. -/
theorem edges_readSeqEvents (P : Byte) (d : Drv) (n : Nat) :
    (risingAt .loadIn d (readSeqEvents P) n = true ↔ n = 1) ∧
      (fallingAt .loadIn d (readSeqEvents P) n = true ↔ n = 0 ∧ d.loadIn = true) ∧
      (risingAt .clockIn d (readSeqEvents P) n = true ↔ 2 ≤ n ∧ n < 26 ∧ n % 3 = 1) ∧
      (fallingAt .clockIn d (readSeqEvents P) n = true ↔ 2 ≤ n ∧ n < 26 ∧ n % 3 = 2 ∧ (n = 2 → d.clockIn = true)) ∧
      (2 ≤ n → (drvAfter d ((readSeqEvents P).take n)).loadIn = true) := by
  have hstrobe : readSeqEvents P = .setLevel .loadIn false :: .setLevel .loadIn true ::
    [0, 1, 2, 3, 4, 5, 6, 7].flatMap (readBitEvents P) := rfl
  rw [hstrobe]
  rcases n with _ | _ | n
  case zero => simp [Drv.get]
  case succ.zero => simp
  case succ.succ =>
    obtain ⟨hloadUp, hloadDown, hclockUp, hclockDown, hload⟩ :=
      edges_readBits P [0, 1, 2, 3, 4, 5, 6, 7] { d with loadIn := true } n
    refine ⟨?_, ?_, hclockUp.trans ?_, hclockDown.trans ?_, fun _ => hload⟩
    · exact iff_of_false (Bool.eq_false_iff.mp hloadUp) (by omega)
    · exact iff_of_false (Bool.eq_false_iff.mp hloadDown) (by omega)
    · change n < 24 ∧ n % 3 = 2 ↔ _
      omega
    · change n < 24 ∧ n % 3 = 0 ∧ (n = 0 → d.clockIn = true) ↔ _
      have hfirst : n + 1 + 1 = 2 ↔ n = 0 := by omega
      simp only [hfirst, ← and_assoc]
      exact and_congr_left' (by omega)

/-- Settles O35: the edges of the strobe and of the eight iterations; no iteration touches `load_in`. -/
theorem readEdges : Obligations.ReadEdges := by
  intro s h
  refine ⟨_, exec_next _ _, ?_⟩
  rw [(issue_read h).1.newEvents_eq]
  refine ⟨rfl, fun n => ?_⟩
  obtain ⟨hloadUp, hloadDown, hclockUp, hclockDown, hload⟩ := edges_readSeqEvents (s.snapshotAt 0) s.drv n
  refine ⟨hloadUp, hloadDown, hclockUp.trans ?_, hclockDown.trans ?_, fun hedge => hload ?_⟩
  · simp only [List.mem_cons, List.not_mem_nil, or_false]
    omega
  · simp only [List.mem_cons, List.not_mem_nil, or_false]
    rcases eq_or_ne n 2 with rfl | hn
    · simp
    · simp only [hn, false_implies, and_true, false_and, false_or]
      omega
  · rcases hedge with hup | hdown
    · exact (hclockUp.mp hup).1
    · exact (hclockDown.mp hdown).1

/-! ## The snapshot (R127) -/

/-- A snapshot depends on the lines before its strobe and on the two gaps up to the strobe's end (R185). -/
theorem snapshotAt_zero_congr {s s' : State} (hlines : s'.inLines = s.inLines) (h0 : s'.gapAt 0 = s.gapAt 0)
    (h1 : s'.gapAt 1 = s.gapAt 1) : s'.snapshotAt 0 = s.snapshotAt 0 := by
  simp only [State.snapshotAt, State.linesAt, Nat.zero_add, hlines, h0, h1]

theorem issue_read_lastResponse {s : State} (h : s.seq = .idle) :
    (s.issue (.command .read)).lastResponse = respRaw (~~~ s.snapshotAt 0) := by
  simp [State.lastResponse, issue_read_responses h]

/-- Settles O36: READ answers the inverted snapshot, which is a function of the lines up to the strobe's end. -/
theorem readReturnsInvertedSnapshot : Obligations.ReadReturnsInvertedSnapshot := by
  refine ⟨fun s h => ⟨_, exec_next _ _, issue_read_responses h, fun k hk => ?sample⟩,
    fun s s' t t' h h' he he' hlines h0 h1 => ?answer⟩
  case sample =>
    rw [(issue_read h).1.newEvents_eq, samplesOf_readSeqEvents_getElem? _ hk]
  case answer =>
    obtain rfl := Host.Outcome.next.inj ((exec_next _ _).symm.trans he)
    obtain rfl := Host.Outcome.next.inj ((exec_next _ _).symm.trans he')
    rw [issue_read_lastResponse h, issue_read_lastResponse h', snapshotAt_zero_congr hlines h0 h1]

end Sys2Proof.Machine
end

section
/-! PROOFS. SAMPLE: its two reads, its decision, its events by number, and the settling wait between the reads. -/

namespace Sys2Proof.Machine

/-! ## The two reads (R122, R141, R144) -/

theorem samplesOf_readSeqEvents_length (P : Byte) : (samplesOf (readSeqEvents P)).length = 8 := by
  simp [samplesOf_readSeqEvents]

/-- The wait samples nothing, so the samples of SAMPLE are those of its two reads. -/
theorem samplesOf_sampleEvents (d : Nat) (P Q : Byte) :
    samplesOf (sampleEvents d P Q) = samplesOf (readSeqEvents P) ++ samplesOf (readSeqEvents Q) := by
  simp [sampleEvents, samplesOf_append, samplesOf]

theorem firstRead_sampleEvents (d : Nat) (P Q : Byte) : firstRead (sampleEvents d P Q) = ~~~P := by
  rw [firstRead, samplesOf_sampleEvents, List.take_left' (samplesOf_readSeqEvents_length P),
    byteOfSamples_readSeqEvents]

theorem secondRead_sampleEvents (d : Nat) (P Q : Byte) : secondRead (sampleEvents d P Q) = ~~~Q := by
  rw [secondRead, samplesOf_sampleEvents, List.drop_left' (samplesOf_readSeqEvents_length P),
    List.take_of_length_le (samplesOf_readSeqEvents_length Q).le, byteOfSamples_readSeqEvents]

/-- The reads of a SAMPLE are the complements of its two strobes' snapshots (R127). -/
theorem issue_sample_reads {s : State} (h : s.seq = .idle) :
    firstRead (newEvents s (s.issue (.command .sample))) = ~~~ s.snapshotAt 0 ∧
      secondRead (newEvents s (s.issue (.command .sample))) = ~~~ s.snapshotAt 27 := by
  rw [(issue_sample h).1.newEvents_eq]
  exact ⟨firstRead_sampleEvents _ _ _, secondRead_sampleEvents _ _ _⟩

/-! ## The decision (R141-R143) -/

/-- What a command answers is its issue. -/
theorem issue_eq_of_exec {i : Instr} {s t : State} (h : exec i s = .next t) : s.issue (.command i) = t :=
  Host.Outcome.next.inj ((exec_next i s).symm.trans h)

theorem agree_eq_decide (a b : Byte) : agree a b = decide (a = b) := rfl

/-- SAMPLE of reads `a` and `b`: SAMPLED takes `a` if they are equal, and the response says whether it did. -/
theorem issue_sample_decides {s : State} (h : s.seq = .idle) {a b : Byte}
    (ha : firstRead (newEvents s (s.issue (.command .sample))) = a)
    (hb : secondRead (newEvents s (s.issue (.command .sample))) = b) :
    (s.issue (.command .sample)).sampled = (if a = b then a else s.sampled) ∧
      (s.issue (.command .sample)).responses =
        s.responses ++ [respSampled (decide (a = b)) (if a = b then a else s.sampled)] := by
  obtain ⟨hfirst, hsecond⟩ := issue_sample_reads h
  obtain ⟨u, hp, -, -, he⟩ := execSample_run h
  rw [← hfirst, ← hsecond, ha, hb, agree_eq_decide] at he
  rw [issue_eq_of_exec (i := .sample) he]
  by_cases hab : a = b
  · simp [hab, hp.responses]
  · simp [hab, hp.responses, hp.sampled]

/-- SAMPLE of reads that differ keeps SAMPLED and answers it, not accepted (R142, R146). -/
theorem issue_sample_rejects {s : State} (h : s.seq = .idle)
    (hab : firstRead (newEvents s (s.issue (.command .sample))) ≠
      secondRead (newEvents s (s.issue (.command .sample)))) :
    (s.issue (.command .sample)).sampled = s.sampled ∧
      (s.issue (.command .sample)).responses = s.responses ++ [respSampled false s.sampled] := by
  have hd := issue_sample_decides h rfl rfl
  rwa [if_neg hab, decide_eq_false hab] at hd

/-- Settles O38: the decision, and SAMPLED kept by the run of SEND, of READ and of a rejected word. -/
theorem sampleAcceptsOnAgreement : Obligations.SampleAcceptsOnAgreement := by
  refine ⟨fun s h => ⟨_, exec_next _ _, issue_seq _ _, ?sample⟩, fun v s t h he => ?send, fun s t h he => ?read,
    fun s h => ?reject⟩
  case sample =>
    obtain ⟨hs, hr⟩ := issue_sample_decides h rfl rfl
    exact ⟨hs, hs ▸ hr⟩
  case send =>
    obtain rfl := issue_eq_of_exec he
    obtain ⟨-, -, -, -, hs⟩ := issue_send v h
    exact hs
  case read =>
    obtain rfl := issue_eq_of_exec he
    obtain ⟨-, -, -, hs⟩ := issue_read h
    exact hs
  case reject => rw [reject_idle h, State.respond_sampled]

/-- Settles O39: reads with a differing bit are not equal. -/
theorem sampleRejectsWholeByte : Obligations.SampleRejectsWholeByte :=
  fun _ _ h => ⟨_, exec_next _ _, fun hbit => issue_sample_rejects h fun hab => hbit (by rw [hab])⟩

/-- Settles O40: the decision on the complements of the snapshots, which are equal where the snapshots are. -/
theorem sampleFiltersBySnapshots : Obligations.SampleFiltersBySnapshots := by
  intro s h
  obtain ⟨hfirst, hsecond⟩ := issue_sample_reads h
  obtain ⟨hs, hr⟩ := issue_sample_decides h hfirst hsecond
  refine ⟨_, exec_next _ _, hfirst, hsecond, fun P h0 h27 => ?agreeing, fun x hx hnew => ?entering⟩
  case agreeing =>
    rw [h0, h27, if_pos rfl] at hs
    rw [h0, h27, if_pos rfl, decide_eq_true rfl] at hr
    exact ⟨hs, hr⟩
  case entering =>
    rw [hs] at hnew
    split_ifs at hnew with hab
    · rw [← hnew, BitVec.not_not]
      exact ⟨rfl, (BitVec.not_inj.mp hab).symm⟩
    · exact absurd hnew.symm hx

/-- Settles O44: the decision is a function of the two reads and of SAMPLED before. -/
theorem sampleHasNoFurtherMemory : Obligations.SampleHasNoFurtherMemory := by
  intro s s' t t' h h' he he' hsampled hfirst hsecond
  obtain rfl := issue_eq_of_exec he
  obtain rfl := issue_eq_of_exec he'
  obtain ⟨hs, hr⟩ := issue_sample_decides h hfirst hsecond
  obtain ⟨hs', hr'⟩ := issue_sample_decides h' rfl rfl
  rw [hsampled] at hs hr
  refine ⟨hs.trans hs'.symm, ?_, issue_seq _ _, issue_seq _ _⟩
  simp [State.lastResponse, hr, hr']

/-- Settles O45: a rejection keeps and answers SAMPLED, which is the reset value. -/
theorem rejectionAfterResetAnswersResetValue : Obligations.RejectionAfterResetAnswersResetValue := by
  intro p
  have hidle : (State.resetWith p).seq = .idle := rfl
  refine ⟨_, exec_next _ _, issue_sample_rejects hidle, fun hsnap => ?_⟩
  obtain ⟨hfirst, hsecond⟩ := issue_sample_reads hidle
  rw [hfirst, hsecond]
  exact mt BitVec.not_inj.mp hsnap

/-! ## The events by number (R144) -/

/-- Each read's events stand together, at 0 and after the wait at 27, and its samples together likewise. -/
theorem sampleEvents_read (d : Nat) (P Q : Byte) {o : Nat} (ho : o = 0 ∨ o = 27) :
    ∃ R, (∀ n < 26, (sampleEvents d P Q)[o + n]? = (readSeqEvents R)[n]?) ∧
      ∀ k < 8, (samplesOf (sampleEvents d P Q))[(if o = 0 then 0 else 8) + k]? = some (R.getLsbD (7 - k)) := by
  rw [samplesOf_sampleEvents, sampleEvents]
  rcases ho with rfl | rfl
  case inl =>
    refine ⟨P, fun n hn => ?_, fun k hk => ?_⟩
    · rw [Nat.zero_add, List.append_assoc, List.getElem?_append_left (by simpa using hn)]
    · rw [if_pos rfl, Nat.zero_add, List.getElem?_append_left (by simpa [samplesOf_readSeqEvents_length] using hk),
        samplesOf_readSeqEvents_getElem? P hk]
  case inr =>
    have hsecond : (readSeqEvents P ++ [LineEvent.sleep d]).length = 27 := by simp
    refine ⟨Q, fun n _ => ?_, fun k hk => ?_⟩
    · rw [← List.getElem?_drop, List.drop_left' hsecond]
    · rw [if_neg (by decide), ← List.getElem?_drop, List.drop_left' (samplesOf_readSeqEvents_length P),
        samplesOf_readSeqEvents_getElem? Q hk]

theorem sampleEvents_wait (d : Nat) (P Q : Byte) : (sampleEvents d P Q)[26]? = some (.sleep d) := rfl

/-- Settles O41: each read's events by READ_SEQ's own numbers, from 0 and from 27. -/
theorem sampleTraceByNumber : Obligations.SampleTraceByNumber := by
  intro s h
  refine ⟨_, exec_next _ _, ?_⟩
  rw [(issue_sample h).1.newEvents_eq]
  refine ⟨sampleEvents_length _ _ _, sampleEvents_wait _ _ _, ?_, fun o ho => ?_⟩
  · simp [samplesOf_sampleEvents, samplesOf_readSeqEvents_length]
  · obtain ⟨R, hevents, hsamples⟩ := sampleEvents_read s.config.window (s.snapshotAt 0) (s.snapshotAt 27) ho
    refine ⟨hevents 0 (by decide), hevents 1 (by decide), fun k hk => ?_⟩
    have hk8 := Nat.lt_succ_of_le hk
    have hbit : ∀ j < 3, (sampleEvents s.config.window (s.snapshotAt 0) (s.snapshotAt 27))[o + (2 + j) + 3 * k]? =
        (readBitEvents R k)[j]? := fun j hj => by
      rw [Nat.add_assoc, hevents _ (by omega), Nat.add_right_comm, readSeqEvents_getElem?_bit R hk8 hj]
    exact ⟨hbit 0 (by decide), ⟨_, hbit 1 (by decide), hsamples k hk8⟩, hbit 2 (by decide)⟩

/-! ## The settling wait (R145) -/

/-- While an accepted job still has statements left or its end to come, it is BUSY and has performed the first of
its events and nothing else. -/
theorem ticks_accept_performed (s : State) (job : Job) {n : Nat} (hn : n ≤ (job.ops s.config).length) :
    ∃ pos w u es rest, State.ticks n (s.accept job) = u.withSeq (.busy job pos w) ∧ Performed es s u ∧
      opsEvents (job.ops s.config) s (Work.fresh s.trace.length) = es ++ rest := by
  have hops := (List.take_append_drop n (job.ops s.config)).symm
  have hticks := ticks_busy _ _ (s := s) (job := job) (pos := 0) (w := Work.fresh s.trace.length) hops
  rw [List.length_take_of_le hn] at hticks
  exact ⟨_, _, _, _, _, hticks, runOps_performed _ _ _,
    (congrArg (opsEvents · s (Work.fresh s.trace.length)) hops).trans (opsEvents_append _ _ _ _)⟩

theorem opsEvents_sampleOps (d : Nat) (s : State) (w : Work) :
    opsEvents (sampleOps d) s w = sampleEvents d (s.snapshotAt 0) (s.snapshotAt 27) :=
  (runOps_performed (sampleOps d) s w).newEvents.symm.trans (sampleOps_run d s w).1.newEvents

/-- With 26 or 27 events of SAMPLE performed, its first read has left both its lines high. -/
theorem drvAfter_sampleEvents_wait (drv : Drv) (d : Nat) (P Q : Byte) {es rest : List LineEvent}
    (hes : sampleEvents d P Q = es ++ rest) (hlo : 26 ≤ es.length) (hhi : es.length ≤ 27) :
    drvAfter drv es = { drv with loadIn := true, clockIn := true } := by
  have hread : (readSeqEvents P).length = 26 := readSeqEvents_length P
  have htake : es = (sampleEvents d P Q).take es.length := by rw [hes, List.take_left]
  rw [htake]
  obtain hlen | hlen : es.length = 26 ∨ es.length = 27 := by omega
  · rw [hlen, sampleEvents, List.append_assoc, List.take_left' hread, drvAfter_readSeqEvents]
  · rw [hlen, sampleEvents, List.take_left' (by simp), drvAfter_append, drvAfter_readSeqEvents]
    rfl

/-- Settles O42: a SAMPLE with so few events performed has not ended, and the wait sets no line. -/
theorem sampleWaitHoldsEverything : Obligations.SampleWaitHoldsEverything := by
  intro s n h hlo hhi
  rcases Nat.lt_or_ge (sampleOps s.config.window).length n with hn | hn
  · rw [ticks_accept_end h hn, (issue_sample h).1.trace, List.length_append, sampleEvents_length] at hhi
    omega
  · obtain ⟨pos, w, u, es, rest, hticks, hp, hes⟩ := ticks_accept_performed s (.command .sample) hn
    rw [ops_sample, opsEvents_sampleOps] at hes
    rw [hticks, State.withSeq_trace, hp.trace, List.length_append] at hlo hhi
    rw [hticks]
    exact ⟨nofun, hp.pending, hp.responses,
      hp.drv.trans (drvAfter_sampleEvents_wait _ _ _ _ hes (by omega) (by omega))⟩

end Sys2Proof.Machine
end

section
/-! PROOFS. The output register under one event, the step that always answers, and the reference host's iteration
as a SAMPLE and a SEND. -/

namespace Sys2Proof.Machine

/-! ## The output register (R182-R184) -/

/-- An edge rises from low to high and nowhere else (R51). -/
theorem rising_iff {old new : Level} : rising old new = true ↔ new = true ∧ old = false := by
  simp [rising]

/-- Of the five lines only `clock_out` reaches the cells (R182). -/
theorem onRising_cells (r : OutReg) (l : DrivenLine) (d : Level) :
    (r.onRising l d).cells = if l = .clockOut then shiftIn r.cells d else r.cells := by
  cases l <;> rfl

/-- Of the five lines only `latch_out` reaches the latches (R183). -/
theorem onRising_latches (r : OutReg) (l : DrivenLine) (d : Level) :
    (r.onRising l d).latches = if l = .latchOut then r.cells else r.latches := by
  cases l <;> rfl

/-- A SetLevel shifts the cells where it raises `clock_out` and leaves them elsewhere (R182). -/
theorem setLevel_cells (s : State) (l : DrivenLine) (b : Level) : (s.setLevel l b).outReg.cells =
    if l = .clockOut ∧ b = true ∧ s.drv.clockOut = false then shiftIn s.outReg.cells s.drv.dataOut
    else s.outReg.cells := by
  rw [State.setLevel_outReg, apply_ite OutReg.cells, onRising_cells]
  by_cases hl : l = .clockOut
  · subst hl
    simp [rising_iff, Drv.get]
  · simp [hl]

/-- A SetLevel commits the cells where it raises `latch_out` and leaves the latches elsewhere (R183). -/
theorem setLevel_latches (s : State) (l : DrivenLine) (b : Level) : (s.setLevel l b).outReg.latches =
    if l = .latchOut ∧ b = true ∧ s.drv.latchOut = false then s.outReg.cells else s.outReg.latches := by
  rw [State.setLevel_outReg, apply_ite OutReg.latches, onRising_latches]
  by_cases hl : l = .latchOut
  · subst hl
    simp [rising_iff, Drv.get]
  · simp [hl]

/-- Settles O21: a shift puts the entering level in cell 0 and moves each cell up by one. -/
theorem outputRegisterShifts : Obligations.OutputRegisterShifts := by
  intro s l b
  rw [setLevel_cells]
  split
  · exact ⟨bitOf_shiftIn_zero _ _, fun j hj => bitOf_shiftIn_succ _ _ (Nat.succ_lt_succ hj)⟩
  · rfl

/-- Settles O22: one SetLevel reaches the latches, and GetLevel and Sleep reach no register. -/
theorem outputLatchesCommit : Obligations.OutputLatchesCommit :=
  ⟨setLevel_latches, State.getLevel_outReg, State.sleep_outReg⟩

/-- Settles O24: enabled outputs are the latches as a byte, so bit by bit. -/
theorem outputsShowLatches : Obligations.OutputsShowLatches := by
  intro s h j _
  rw [outputs_of_enabled h]

/-! ## Every step answers (R160-R162) -/

theorem step_wait {s : State} (hwf : s.config.wf = true) (hs : s.seq = .idle) (hp : s.pending = []) :
    step s = .next s := by
  simp only [step, hwf, hs, hp, if_true]

theorem step_invalid {s : State} {w : CommandWord} {ws : List CommandWord} {e : InvalidWord}
    (hwf : s.config.wf = true) (hs : s.seq = .idle) (hp : s.pending = w :: ws) (hd : decode w = .error e) :
    step s = .next s.takeWord.reject := by
  simp only [step, hwf, hs, hp, hd, if_true]

/-- Settles O8: the rejection at IDLE is a response and nothing else. -/
theorem invalidWordIsRejected : Obligations.InvalidWordIsRejected := by
  intro s w ws e hwf hs hp hd
  have hidle : s.takeWord.seq = .idle := hs
  rw [step_invalid hwf hs hp hd, reject_idle hidle, takeWord_eq hp, State.respond, ← hs]
  rfl

/-- What is running ends, the core waits, or a word is performed or rejected: each answers (R75, R160, R201). -/
theorem step_answers {s : State} (hwf : s.config.wf = true) : ∃ t, step s = .next t := by
  cases hs : s.seq with
  | busy job pos w => exact ⟨_, step_busy hwf hs⟩
  | idle =>
    cases hp : s.pending with
    | nil => exact ⟨_, step_wait hwf hs hp⟩
    | cons w ws =>
      cases hd : decode w with
      | ok i => exact ⟨_, (step_command hwf hs hp hd).trans (exec_next i _)⟩
      | error e => exact ⟨_, step_invalid hwf hs hp hd⟩

/-- Settles O15: a step answers or, with an ill-formed configuration, is refused. -/
theorem noStepStops : Obligations.NoStepStops := by
  refine ⟨fun s => step_answers, fun s f hfault => ?_⟩
  by_cases hwf : s.config.wf = true
  · obtain ⟨t, hnext⟩ := step_answers hwf
    cases hnext.symm.trans hfault
  · cases (step_refused hwf).symm.trans hfault

/-! ## The reference host (R176, R177) -/

theorem present_pending_of_nil {s : State} (hp : s.pending = []) (w : CommandWord) :
    (s.present w).pending = [w] := by
  rw [State.present_pending, hp, List.nil_append]

/-- Taking the only word waiting undoes its presentation. -/
theorem takeWord_present {s : State} (hp : s.pending = []) (w : CommandWord) : (s.present w).takeWord = s := by
  rw [takeWord_eq (present_pending_of_nil hp w), State.present, ← hp]

/-- A host that calls a core at IDLE with no word waiting has its command performed (R75, R176). -/
theorem call_eq_exec {s : State} (hwf : s.config.wf = true) (hs : s.seq = .idle) (hp : s.pending = []) (i : Instr) :
    s.call i = exec i s := by
  have hstep := step_command (s := s.present (encode i)) hwf hs (present_pending_of_nil hp _) (decode_encode i)
  rwa [takeWord_present hp] at hstep

/-- The VALUE of a SAMPLE's response is SAMPLED as it left it, accepted or not (R143). -/
theorem issue_sample_lastValue {s : State} (h : s.seq = .idle) :
    (s.issue (.command .sample)).lastValue = (s.issue (.command .sample)).sampled := by
  obtain ⟨hs, hr⟩ := issue_sample_decides h rfl rfl
  rw [State.lastValue, hr, List.getLastD_concat, respSampled, respValue_respWord, hs]

/-- SEND responds DONE (R101). -/
theorem issue_send_responses (v : Byte) {s : State} (h : s.seq = .idle) :
    (s.issue (.command (.send v))).responses = s.responses ++ [respDone] := by
  obtain ⟨u, hp, -, -, -, he⟩ := execSend_run v h
  rw [issue_eq_of_exec (i := .send v) he, State.respond_responses, hp.responses]

/-- SEND leaves its operand in the latches (R106). -/
theorem issue_send_latches (v : Byte) {s : State} (h : s.seq = .idle) :
    (s.issue (.command (.send v))).outReg.latches = v := by
  obtain ⟨-, -, hr, -⟩ := issue_send v h
  rw [hr]

/-- The events of two jobs, one after the other. -/
theorem Answered.newEvents_append {es fs : List LineEvent} {s t u : State} (h : Answered es s t)
    (k : Answered fs t u) : newEvents s u = es ++ fs := by
  rw [newEvents, k.trace, h.trace, List.append_assoc, List.drop_left]

/-- The state after a SAMPLE and a SEND of SAMPLED as the SAMPLE left it. -/
def State.sampleThenSend (s : State) : State :=
  (s.issue (.command .sample)).issue (.command (.send (s.issue (.command .sample)).sampled))

/-- One iteration of the reference host is a SAMPLE and a SEND of SAMPLED (R176). -/
theorem controllerIteration_eq {s : State} (hwf : s.config.wf = true) (hs : s.seq = .idle) (hp : s.pending = []) :
    controllerIteration s = .next s.sampleThenSend := by
  obtain ⟨ha, -, -⟩ := issue_sample hs
  have hsend := call_eq_exec (by rwa [ha.config]) (issue_seq s (.command .sample)) (ha.pending.trans hp)
  rw [controllerIteration, call_eq_exec hwf hs hp, exec_next]
  simp only [hsend, issue_sample_lastValue hs, exec_next, State.sampleThenSend]

/-- Settles O55: SEND commits SAMPLED, which a SAMPLE of reads that differ has kept. -/
theorem referenceLoopSendsLatestAccepted : Obligations.ReferenceLoopSendsLatestAccepted := by
  intro s hwf hs hp
  obtain ⟨ha, -, -⟩ := issue_sample hs
  have ht := issue_seq s (.command .sample)
  obtain ⟨ka, ho, -, -, hx⟩ := issue_send (s.issue (.command .sample)).sampled ht
  have hlatches := issue_send_latches (s.issue (.command .sample)).sampled ht
  exact ⟨_, _, exec_next _ _, exec_next _ _, controllerIteration_eq hwf hs hp, hx, ho, hlatches,
    fun hdiffer => hlatches.trans (issue_sample_rejects hs hdiffer).1, issue_seq _ _,
    ka.pending.trans (ha.pending.trans hp)⟩

/-- Settles O54: equal snapshots are accepted inverted, and SEND commits what was accepted. -/
theorem stableInputsReachTheOutputs : Obligations.StableInputsReachTheOutputs := by
  intro s P hs h0 h27
  obtain ⟨t, he, -, -, hagree, -⟩ := sampleFiltersBySnapshots s hs
  obtain rfl := issue_eq_of_exec he
  obtain ⟨hsampled, hresponses⟩ := hagree P h0 h27
  obtain ⟨ha, -, -⟩ := issue_sample hs
  have ht := issue_seq s (.command .sample)
  obtain ⟨ka, ho, -, -, hx⟩ := issue_send (~~~ P) ht
  have hlatches := issue_send_latches (~~~ P) ht
  refine ⟨_, _, exec_next _ _, (issue_sample_lastValue hs).trans hsampled, exec_next _ _, hlatches, ho,
    hx.trans hsampled, fun henabled => (outputs_of_enabled henabled).trans hlatches, ?responses, ?count,
    fun hwf hp => ?host⟩
  case responses => rw [issue_send_responses _ ht, hresponses, List.append_assoc, List.singleton_append]
  case count => rw [ha.newEvents_append ka, List.length_append, sampleEvents_length, sendEvents_length]
  case host => rw [controllerIteration_eq hwf hs hp, State.sampleThenSend, hsampled]

end Sys2Proof.Machine
end

section
/-! PROOFS. How many events of each kind a command performs, and the core that waits, at reset and after. -/

namespace Sys2Proof.Machine

/-! ## Events counted by kind (R218) -/

/-- `es` holds `sets` SetLevels, `gets` GetLevels and `sleeps` Sleeps, and so as many events as these together. -/
structure KindCounts (es : List LineEvent) (sets gets sleeps : Nat) : Prop where
  setLevel : es.countP LineEvent.isSetLevel = sets
  getLevel : es.countP LineEvent.isGetLevel = gets
  sleep : es.countP LineEvent.isSleep = sleeps
  total : es.length = sets + gets + sleeps

theorem KindCounts.append {es fs : List LineEvent} {a b c a' b' c' : Nat} (h : KindCounts es a b c)
    (k : KindCounts fs a' b' c') : KindCounts (es ++ fs) (a + a') (b + b') (c + c') where
  setLevel := by rw [List.countP_append, h.setLevel, k.setLevel]
  getLevel := by rw [List.countP_append, h.getLevel, k.getLevel]
  sleep := by rw [List.countP_append, h.sleep, k.sleep]
  total := by
    rw [List.length_append, h.total, k.total]
    omega

/-- A loop whose every iteration performs the same number of events of each kind. -/
theorem KindCounts.flatMap {f : Nat → List LineEvent} {a b c : Nat} (h : ∀ i, KindCounts (f i) a b c)
    (is : List Nat) : KindCounts (is.flatMap f) (is.length * a) (is.length * b) (is.length * c) := by
  induction is with
  | nil => simpa using (⟨rfl, rfl, rfl, rfl⟩ : KindCounts [] 0 0 0)
  | cons i is ih =>
    simpa only [List.flatMap_cons, List.length_cons, Nat.succ_mul, Nat.add_comm] using (h i).append ih

/-- Eight times the three SetLevels of a bit, then the latch pulse (R102). -/
theorem kindCounts_sendEvents (v : Byte) : KindCounts (sendEvents v) 26 0 0 :=
  have hbit : ∀ i, KindCounts (sendBitEvents v i) 3 0 0 := fun _ => ⟨rfl, rfl, rfl, rfl⟩
  (KindCounts.flatMap hbit _).append ⟨rfl, rfl, rfl, rfl⟩

/-- The strobe, then eight times a clock pulse around a sample (R123). -/
theorem kindCounts_readSeqEvents (P : Byte) : KindCounts (readSeqEvents P) 18 8 0 :=
  have hbit : ∀ k, KindCounts (readBitEvents P k) 2 1 0 := fun _ => ⟨rfl, rfl, rfl, rfl⟩
  have hstrobe : KindCounts [.setLevel .loadIn false, .setLevel .loadIn true] 2 0 0 := ⟨rfl, rfl, rfl, rfl⟩
  hstrobe.append (KindCounts.flatMap hbit _)

/-- Two reads and the wait between them (R144). -/
theorem kindCounts_sampleEvents (d : Nat) (P Q : Byte) : KindCounts (sampleEvents d P Q) 36 16 1 :=
  have hwait : KindCounts [.sleep d] 0 0 1 := ⟨rfl, rfl, rfl, rfl⟩
  ((kindCounts_readSeqEvents P).append hwait).append (kindCounts_readSeqEvents Q)

theorem newEvents_reject {s : State} (h : s.seq = .idle) : newEvents s s.reject = [] := by
  rw [reject_idle h, newEvents, State.respond_trace, List.drop_length]

/-- Settles O47: the kinds counted over the list of events each command performs. -/
theorem eventCounts : Obligations.EventCounts := by
  intro s h
  refine ⟨fun v => ⟨_, exec_next _ _, ?send⟩, ⟨_, exec_next _ _, ?read⟩, ⟨_, exec_next _ _, ?sample⟩,
    newEvents_reject h⟩
  case send =>
    rw [(issue_send v h).1.newEvents_eq]
    have k := kindCounts_sendEvents v
    exact ⟨k.setLevel, k.getLevel, k.sleep, k.total⟩
  case read =>
    rw [(issue_read h).1.newEvents_eq]
    have k := kindCounts_readSeqEvents (s.snapshotAt 0)
    exact ⟨k.setLevel, k.getLevel, k.sleep, k.total⟩
  case sample =>
    rw [(issue_sample h).1.newEvents_eq]
    have k := kindCounts_sampleEvents s.config.window (s.snapshotAt 0) (s.snapshotAt 27)
    exact ⟨k.setLevel, k.getLevel, k.sleep, List.mem_of_getElem? (sampleEvents_wait _ _ _), k.total⟩

/-! ## Waiting (R201) -/

/-- The reference identifiers are distinct and the reference window is greater than 0 (R10, R27; logs 12, 13). -/
theorem reset_config_wf : State.reset.config.wf = true := by decide

/-- Settles O9: an IDLE core with no word presented waits, and at reset the core is one. -/
theorem idleCoreWaits : Obligations.IdleCoreWaits :=
  ⟨fun _ => step_wait, step_wait reset_config_wf rfl rfl⟩

end Sys2Proof.Machine
end

section
/-! PROOFS. The decoding vectors V-DEC-1 to V-DEC-12. -/

namespace Sys2Proof

/-- Settles O2: a command's own word decodes to it; every other word is refused by its OP, and under READ and SAMPLE
by its DATA not being 0x00 (R71, R73, R74). -/
theorem decoderReadsWordsWrittenOut : Obligations.DecoderReadsWordsWrittenOut :=
  ⟨decode_of_op_reserved rfl, decode_of_op_reserved rfl, decode_of_op_reserved rfl,
    decode_encode (.send 0x00#8), decode_encode (.send 0xA5#8), decode_encode (.send 0xFF#8),
    decode_encode .read, decode_of_op_read rfl, decode_of_op_read rfl,
    decode_encode .sample, decode_of_op_sample rfl, decode_of_op_sample rfl⟩

end Sys2Proof
end
